-- ==== Sys2Proof/Word.lean ====
section
/-! DEFINITION. The word types of the machine: 8, 16 and 32 bits (00_scope R7: XLEN is 32). -/

namespace Sys2Proof

/-- A byte, the unit of addressing (20_memory R70). -/
abbrev Byte := BitVec 8

/-- A 16-bit halfword: the narrow load and store width, a VRAM pixel, a timer counter. -/
abbrev Half := BitVec 16

/-- A 32-bit word: every general register, pc, HI, LO, COP0 register and address (00_scope R7). -/
abbrev Word := BitVec 32

/-- A general register number, 0 to 31, as the 5-bit field of an instruction holds it (30_encoding R131). -/
abbrev Reg := BitVec 5

end Sys2Proof
end

