-- ==== Sys2Proof/Syntax.lean ====
section
/-! DEFINITION. The abstract syntax: one constructor per row of spec/opcode_table.json.

Operands stand in the order of the assembler syntax of 30_encoding R145 (destination first; a load or store as
`rt, offset, base`). Fields an instruction does not use are no operands: the decoder ignores them (30_encoding R135). -/

namespace Sys2Proof

/-- The 72 rows of the opcode table: the 56 instructions of 30_encoding R136, the eight coprocessor-unusable opcodes of
R142 and the eight refused opcodes of R141. A shift amount and a COP0 register number are numbers, not register
fields: WellFormed bounds them. -/
inductive Instr where
  -- immediate arithmetic and logic (41_alu_immediate)
  | lui (rt : Reg) (imm : Half)
  | ori (rt rs : Reg) (imm : Half)
  | andi (rt rs : Reg) (imm : Half)
  | addi (rt rs : Reg) (imm : Half)
  | addiu (rt rs : Reg) (imm : Half)
  | slti (rt rs : Reg) (imm : Half)
  | sltiu (rt rs : Reg) (imm : Half)
  -- loads and stores (42_load_store)
  | lw (rt : Reg) (offset : Half) (base : Reg)
  | lh (rt : Reg) (offset : Half) (base : Reg)
  | lhu (rt : Reg) (offset : Half) (base : Reg)
  | lb (rt : Reg) (offset : Half) (base : Reg)
  | lbu (rt : Reg) (offset : Half) (base : Reg)
  | sw (rt : Reg) (offset : Half) (base : Reg)
  | sh (rt : Reg) (offset : Half) (base : Reg)
  | sb (rt : Reg) (offset : Half) (base : Reg)
  -- shifts (43_shift)
  | sll (rd rt : Reg) (shamt : Nat)
  | srl (rd rt : Reg) (shamt : Nat)
  | sra (rd rt : Reg) (shamt : Nat)
  | sllv (rd rt rs : Reg)
  | srlv (rd rt rs : Reg)
  | srav (rd rt rs : Reg)
  -- register arithmetic and logic (44_alu_register)
  | add (rd rs rt : Reg)
  | addu (rd rs rt : Reg)
  | sub (rd rs rt : Reg)
  | subu (rd rs rt : Reg)
  | and (rd rs rt : Reg)
  | or (rd rs rt : Reg)
  | xor (rd rs rt : Reg)
  | nor (rd rs rt : Reg)
  | slt (rd rs rt : Reg)
  | sltu (rd rs rt : Reg)
  -- multiply, divide, HI and LO (45_muldiv)
  | mult (rs rt : Reg)
  | multu (rs rt : Reg)
  | div (rs rt : Reg)
  | divu (rs rt : Reg)
  | mfhi (rd : Reg)
  | mflo (rd : Reg)
  | mthi (rs : Reg)
  | mtlo (rs : Reg)
  -- jumps and branches (46_jump_branch)
  | j (target : BitVec 26)
  | jal (target : BitVec 26)
  | jr (rs : Reg)
  | jalr (rd rs : Reg)
  | beq (rs rt : Reg) (offset : Half)
  | bne (rs rt : Reg) (offset : Half)
  | blez (rs : Reg) (offset : Half)
  | bgtz (rs : Reg) (offset : Half)
  | bltz (rs : Reg) (offset : Half)
  | bgez (rs : Reg) (offset : Half)
  | bltzal (rs : Reg) (offset : Half)
  | bgezal (rs : Reg) (offset : Half)
  -- exceptions by instruction and COP0 (47_system_cop0)
  | syscall
  | brk
  | mfc0 (rt : Reg) (cop0 : Nat)
  | mtc0 (rt : Reg) (cop0 : Nat)
  | rfe
  -- coprocessor-unusable opcodes (30_encoding R142)
  | cop1
  | cop3
  | lwc0
  | lwc1
  | lwc3
  | swc0
  | swc1
  | swc3
  -- refused opcodes (30_encoding R141)
  | xori
  | cop2
  | lwl
  | lwr
  | swl
  | swr
  | lwc2
  | swc2
  deriving DecidableEq, Repr

end Sys2Proof
end

