-- ==== Sys2Proof/WellFormed.lean ====
section
/-! DEFINITION. Well-formed instructions: every operand fits its field of 30_encoding R131.

Register, immediate, offset and target operands are bit vectors of their field's own width and always fit. A shift amount
and a COP0 register number are naturals: these are the checks. -/

namespace Sys2Proof

/-- A shift amount fits `shamt`: 0 to 31 (30_encoding R133). -/
def shamtFits (shamt : Nat) : Bool := shamt < 32

/-- A COP0 register number fits `rd`: 0 to 31 (30_encoding R133). -/
def cop0NumberFits (n : Nat) : Bool := n < 32

/-- Every operand of the instruction fits its field of the word. -/
def Instr.wellFormed : Instr → Bool
  | .sll _ _ shamt => shamtFits shamt
  | .srl _ _ shamt => shamtFits shamt
  | .sra _ _ shamt => shamtFits shamt
  | .mfc0 _ n => cop0NumberFits n
  | .mtc0 _ n => cop0NumberFits n
  | .lui _ _ | .ori _ _ _ | .andi _ _ _ | .addi _ _ _ | .addiu _ _ _ | .slti _ _ _ | .sltiu _ _ _ => true
  | .lw _ _ _ | .lh _ _ _ | .lhu _ _ _ | .lb _ _ _ | .lbu _ _ _ | .sw _ _ _ | .sh _ _ _ | .sb _ _ _ => true
  | .sllv _ _ _ | .srlv _ _ _ | .srav _ _ _ => true
  | .add _ _ _ | .addu _ _ _ | .sub _ _ _ | .subu _ _ _ | .and _ _ _ | .or _ _ _ | .xor _ _ _ | .nor _ _ _ => true
  | .slt _ _ _ | .sltu _ _ _ => true
  | .mult _ _ | .multu _ _ | .div _ _ | .divu _ _ | .mfhi _ | .mflo _ | .mthi _ | .mtlo _ => true
  | .j _ | .jal _ | .jr _ | .jalr _ _ => true
  | .beq _ _ _ | .bne _ _ _ | .blez _ _ | .bgtz _ _ | .bltz _ _ | .bgez _ _ | .bltzal _ _ | .bgezal _ _ => true
  | .syscall | .brk | .rfe => true
  | .cop1 | .cop3 | .lwc0 | .lwc1 | .lwc3 | .swc0 | .swc1 | .swc3 => true
  | .xori | .cop2 | .lwl | .lwr | .swl | .swr | .lwc2 | .swc2 => true

end Sys2Proof
end

