-- ==== Sys2Proof/Decode.lean ====
section
/-! DEFINITION. The decoder, total on every list of bytes and rejecting by name (30_encoding R130 to R142), and after it the
encoder, written from the same tables. -/

namespace Sys2Proof

/-- Why a word is no instruction of the opcode table. -/
inductive DecodeError where
  /-- Fewer than four bytes: there is no word to decode (30_encoding R130: one length only). -/
  | tooShort
  /-- A word no row matches whose `op` is neither 0x01 nor 0x10: executing it raises exception code 10 (30_encoding R140). -/
  | reservedInstruction
  /-- `op` = 0x01 with `rt` outside the four selectors: refused (30_encoding R139, R141). -/
  | regimmSelector
  /-- `op` = 0x10 with a sub-opcode other than MFC0, MTC0, RFE: refused (30_encoding R139, R141). -/
  | cop0SubOpcode
  deriving DecidableEq, Repr

/-! ## Fields (30_encoding R131) -/

def fieldOp (w : Word) : BitVec 6 := w.extractLsb' 26 6
def fieldRs (w : Word) : Reg := w.extractLsb' 21 5
def fieldRt (w : Word) : Reg := w.extractLsb' 16 5
def fieldRd (w : Word) : Reg := w.extractLsb' 11 5
def fieldShamt (w : Word) : BitVec 5 := w.extractLsb' 6 5
def fieldFunct (w : Word) : BitVec 6 := w.extractLsb' 0 6
def fieldImm16 (w : Word) : Half := w.extractLsb' 0 16
def fieldTarget26 (w : Word) : BitVec 26 := w.extractLsb' 0 26

/-! ## The decoder -/

/-- `op` = 0x00, selected by `funct` (30_encoding R138). -/
def decodeSpecial (w : Word) : Except DecodeError Instr :=
  match fieldFunct w with
  | 0x00#6 => .ok (.sll (fieldRd w) (fieldRt w) (fieldShamt w).toNat)
  | 0x02#6 => .ok (.srl (fieldRd w) (fieldRt w) (fieldShamt w).toNat)
  | 0x03#6 => .ok (.sra (fieldRd w) (fieldRt w) (fieldShamt w).toNat)
  | 0x04#6 => .ok (.sllv (fieldRd w) (fieldRt w) (fieldRs w))
  | 0x06#6 => .ok (.srlv (fieldRd w) (fieldRt w) (fieldRs w))
  | 0x07#6 => .ok (.srav (fieldRd w) (fieldRt w) (fieldRs w))
  | 0x08#6 => .ok (.jr (fieldRs w))
  | 0x09#6 => .ok (.jalr (fieldRd w) (fieldRs w))
  | 0x0C#6 => .ok .syscall
  | 0x0D#6 => .ok .brk
  | 0x10#6 => .ok (.mfhi (fieldRd w))
  | 0x11#6 => .ok (.mthi (fieldRs w))
  | 0x12#6 => .ok (.mflo (fieldRd w))
  | 0x13#6 => .ok (.mtlo (fieldRs w))
  | 0x18#6 => .ok (.mult (fieldRs w) (fieldRt w))
  | 0x19#6 => .ok (.multu (fieldRs w) (fieldRt w))
  | 0x1A#6 => .ok (.div (fieldRs w) (fieldRt w))
  | 0x1B#6 => .ok (.divu (fieldRs w) (fieldRt w))
  | 0x20#6 => .ok (.add (fieldRd w) (fieldRs w) (fieldRt w))
  | 0x21#6 => .ok (.addu (fieldRd w) (fieldRs w) (fieldRt w))
  | 0x22#6 => .ok (.sub (fieldRd w) (fieldRs w) (fieldRt w))
  | 0x23#6 => .ok (.subu (fieldRd w) (fieldRs w) (fieldRt w))
  | 0x24#6 => .ok (.and (fieldRd w) (fieldRs w) (fieldRt w))
  | 0x25#6 => .ok (.or (fieldRd w) (fieldRs w) (fieldRt w))
  | 0x26#6 => .ok (.xor (fieldRd w) (fieldRs w) (fieldRt w))
  | 0x27#6 => .ok (.nor (fieldRd w) (fieldRs w) (fieldRt w))
  | 0x2A#6 => .ok (.slt (fieldRd w) (fieldRs w) (fieldRt w))
  | 0x2B#6 => .ok (.sltu (fieldRd w) (fieldRs w) (fieldRt w))
  | _ => .error .reservedInstruction

/-- `op` = 0x01, selected by `rt` (30_encoding R139). -/
def decodeRegimm (w : Word) : Except DecodeError Instr :=
  match fieldRt w with
  | 0x00#5 => .ok (.bltz (fieldRs w) (fieldImm16 w))
  | 0x01#5 => .ok (.bgez (fieldRs w) (fieldImm16 w))
  | 0x10#5 => .ok (.bltzal (fieldRs w) (fieldImm16 w))
  | 0x11#5 => .ok (.bgezal (fieldRs w) (fieldImm16 w))
  | _ => .error .regimmSelector

/-- `op` = 0x10, selected by `rs`, and by `funct` when `rs` = 0x10 (30_encoding R139). -/
def decodeCop0 (w : Word) : Except DecodeError Instr :=
  match fieldRs w with
  | 0x00#5 => .ok (.mfc0 (fieldRt w) (fieldRd w).toNat)
  | 0x04#5 => .ok (.mtc0 (fieldRt w) (fieldRd w).toNat)
  | 0x10#5 => if fieldFunct w = 0x10#6 then .ok .rfe else .error .cop0SubOpcode
  | _ => .error .cop0SubOpcode

/-- The decoder of 30_encoding R134 on a 32-bit word. -/
def decode (w : Word) : Except DecodeError Instr :=
  match fieldOp w with
  | 0x00#6 => decodeSpecial w
  | 0x01#6 => decodeRegimm w
  | 0x02#6 => .ok (.j (fieldTarget26 w))
  | 0x03#6 => .ok (.jal (fieldTarget26 w))
  | 0x04#6 => .ok (.beq (fieldRs w) (fieldRt w) (fieldImm16 w))
  | 0x05#6 => .ok (.bne (fieldRs w) (fieldRt w) (fieldImm16 w))
  | 0x06#6 => .ok (.blez (fieldRs w) (fieldImm16 w))
  | 0x07#6 => .ok (.bgtz (fieldRs w) (fieldImm16 w))
  | 0x08#6 => .ok (.addi (fieldRt w) (fieldRs w) (fieldImm16 w))
  | 0x09#6 => .ok (.addiu (fieldRt w) (fieldRs w) (fieldImm16 w))
  | 0x0A#6 => .ok (.slti (fieldRt w) (fieldRs w) (fieldImm16 w))
  | 0x0B#6 => .ok (.sltiu (fieldRt w) (fieldRs w) (fieldImm16 w))
  | 0x0C#6 => .ok (.andi (fieldRt w) (fieldRs w) (fieldImm16 w))
  | 0x0D#6 => .ok (.ori (fieldRt w) (fieldRs w) (fieldImm16 w))
  | 0x0E#6 => .ok .xori
  | 0x0F#6 => .ok (.lui (fieldRt w) (fieldImm16 w))
  | 0x10#6 => decodeCop0 w
  | 0x11#6 => .ok .cop1
  | 0x12#6 => .ok .cop2
  | 0x13#6 => .ok .cop3
  | 0x20#6 => .ok (.lb (fieldRt w) (fieldImm16 w) (fieldRs w))
  | 0x21#6 => .ok (.lh (fieldRt w) (fieldImm16 w) (fieldRs w))
  | 0x22#6 => .ok .lwl
  | 0x23#6 => .ok (.lw (fieldRt w) (fieldImm16 w) (fieldRs w))
  | 0x24#6 => .ok (.lbu (fieldRt w) (fieldImm16 w) (fieldRs w))
  | 0x25#6 => .ok (.lhu (fieldRt w) (fieldImm16 w) (fieldRs w))
  | 0x26#6 => .ok .lwr
  | 0x28#6 => .ok (.sb (fieldRt w) (fieldImm16 w) (fieldRs w))
  | 0x29#6 => .ok (.sh (fieldRt w) (fieldImm16 w) (fieldRs w))
  | 0x2A#6 => .ok .swl
  | 0x2B#6 => .ok (.sw (fieldRt w) (fieldImm16 w) (fieldRs w))
  | 0x2E#6 => .ok .swr
  | 0x30#6 => .ok .lwc0
  | 0x31#6 => .ok .lwc1
  | 0x32#6 => .ok .lwc2
  | 0x33#6 => .ok .lwc3
  | 0x38#6 => .ok .swc0
  | 0x39#6 => .ok .swc1
  | 0x3A#6 => .ok .swc2
  | 0x3B#6 => .ok .swc3
  | _ => .error .reservedInstruction

/-- A little-endian word from its four bytes, the first at the lowest address (20_memory R75). -/
def wordOfBytes (b0 b1 b2 b3 : Byte) : Word := b3 ++ b2 ++ b1 ++ b0

/-- The four bytes of a word, lowest address first (20_memory R75). -/
def bytesOfWord (w : Word) : List Byte :=
  [w.extractLsb' 0 8, w.extractLsb' 8 8, w.extractLsb' 16 8, w.extractLsb' 24 8]

/-- The decoder on bytes: the first four are the instruction's word, the rest of the list is given back. -/
def decodeBytes : List Byte → Except DecodeError (Instr × List Byte)
  | b0 :: b1 :: b2 :: b3 :: rest =>
    match decode (wordOfBytes b0 b1 b2 b3) with
    | .ok i => .ok (i, rest)
    | .error e => .error e
  | _ => .error .tooShort

/-- The word of an instruction that the table gives as the number `w` of `nbits` bits, every bit above them 0. -/
def tableWord (nbits w : Nat) : Word := BitVec.ofNat 32 (w % 2 ^ nbits)

/-- The instruction the decoder reads from an instruction whose bits are `w`, numbered as the opcode table numbers them: the
word is laid out little-endian and the decoder reads the bytes. `none` where it rejects. -/
def decodeTableWord (nbits w : Nat) : Option Instr :=
  match decodeBytes (bytesOfWord (tableWord nbits w)) with
  | .ok (i, _) => some i
  | .error _ => none

/-! ## The encoder -/

/-- R format with `op` = 0 (30_encoding R132). -/
def rType (rs rt rd shamt : BitVec 5) (funct : BitVec 6) : Word := 0x00#6 ++ rs ++ rt ++ rd ++ shamt ++ funct

/-- I format (30_encoding R132). -/
def iType (op : BitVec 6) (rs rt : BitVec 5) (imm : Half) : Word := op ++ rs ++ rt ++ imm

/-- J format (30_encoding R132). -/
def jType (op : BitVec 6) (target : BitVec 26) : Word := op ++ target

/-- COP0 move (30_encoding R132): `sub` in the rs field, the COP0 register number in the rd field. -/
def cop0Move (sub rt : BitVec 5) (n : Nat) : Word := 0x10#6 ++ sub ++ rt ++ BitVec.ofNat 5 n ++ 0#11

/-- An opcode selected by `op` alone, every other bit 0. -/
def opOnly (op : BitVec 6) : Word := op ++ 0#26

/-- The word of an instruction, 0 in every field it does not use. -/
def encode : Instr → Word
  | .lui rt imm => iType 0x0F 0 rt imm
  | .ori rt rs imm => iType 0x0D rs rt imm
  | .andi rt rs imm => iType 0x0C rs rt imm
  | .addi rt rs imm => iType 0x08 rs rt imm
  | .addiu rt rs imm => iType 0x09 rs rt imm
  | .slti rt rs imm => iType 0x0A rs rt imm
  | .sltiu rt rs imm => iType 0x0B rs rt imm
  | .lw rt offset base => iType 0x23 base rt offset
  | .lh rt offset base => iType 0x21 base rt offset
  | .lhu rt offset base => iType 0x25 base rt offset
  | .lb rt offset base => iType 0x20 base rt offset
  | .lbu rt offset base => iType 0x24 base rt offset
  | .sw rt offset base => iType 0x2B base rt offset
  | .sh rt offset base => iType 0x29 base rt offset
  | .sb rt offset base => iType 0x28 base rt offset
  | .sll rd rt shamt => rType 0 rt rd (BitVec.ofNat 5 shamt) 0x00
  | .srl rd rt shamt => rType 0 rt rd (BitVec.ofNat 5 shamt) 0x02
  | .sra rd rt shamt => rType 0 rt rd (BitVec.ofNat 5 shamt) 0x03
  | .sllv rd rt rs => rType rs rt rd 0 0x04
  | .srlv rd rt rs => rType rs rt rd 0 0x06
  | .srav rd rt rs => rType rs rt rd 0 0x07
  | .add rd rs rt => rType rs rt rd 0 0x20
  | .addu rd rs rt => rType rs rt rd 0 0x21
  | .sub rd rs rt => rType rs rt rd 0 0x22
  | .subu rd rs rt => rType rs rt rd 0 0x23
  | .and rd rs rt => rType rs rt rd 0 0x24
  | .or rd rs rt => rType rs rt rd 0 0x25
  | .xor rd rs rt => rType rs rt rd 0 0x26
  | .nor rd rs rt => rType rs rt rd 0 0x27
  | .slt rd rs rt => rType rs rt rd 0 0x2A
  | .sltu rd rs rt => rType rs rt rd 0 0x2B
  | .mult rs rt => rType rs rt 0 0 0x18
  | .multu rs rt => rType rs rt 0 0 0x19
  | .div rs rt => rType rs rt 0 0 0x1A
  | .divu rs rt => rType rs rt 0 0 0x1B
  | .mfhi rd => rType 0 0 rd 0 0x10
  | .mflo rd => rType 0 0 rd 0 0x12
  | .mthi rs => rType rs 0 0 0 0x11
  | .mtlo rs => rType rs 0 0 0 0x13
  | .j target => jType 0x02 target
  | .jal target => jType 0x03 target
  | .jr rs => rType rs 0 0 0 0x08
  | .jalr rd rs => rType rs 0 rd 0 0x09
  | .beq rs rt offset => iType 0x04 rs rt offset
  | .bne rs rt offset => iType 0x05 rs rt offset
  | .blez rs offset => iType 0x06 rs 0 offset
  | .bgtz rs offset => iType 0x07 rs 0 offset
  | .bltz rs offset => iType 0x01 rs 0x00 offset
  | .bgez rs offset => iType 0x01 rs 0x01 offset
  | .bltzal rs offset => iType 0x01 rs 0x10 offset
  | .bgezal rs offset => iType 0x01 rs 0x11 offset
  | .syscall => rType 0 0 0 0 0x0C
  | .brk => rType 0 0 0 0 0x0D
  | .mfc0 rt n => cop0Move 0x00 rt n
  | .mtc0 rt n => cop0Move 0x04 rt n
  | .rfe => 0x42000010
  | .cop1 => opOnly 0x11
  | .cop3 => opOnly 0x13
  | .lwc0 => opOnly 0x30
  | .lwc1 => opOnly 0x31
  | .lwc3 => opOnly 0x33
  | .swc0 => opOnly 0x38
  | .swc1 => opOnly 0x39
  | .swc3 => opOnly 0x3B
  | .xori => opOnly 0x0E
  | .cop2 => opOnly 0x12
  | .lwl => opOnly 0x22
  | .lwr => opOnly 0x26
  | .swl => opOnly 0x2A
  | .swr => opOnly 0x2E
  | .lwc2 => opOnly 0x32
  | .swc2 => opOnly 0x3A

/-- The bytes of an instruction in memory order. -/
def encodeBytes (i : Instr) : List Byte := bytesOfWord (encode i)

end Sys2Proof
end

