-- ==== Sys2Proof/Config.lean ====
section
/-! DEFINITION. What the hardware fixes (00_scope R7), the open parameters a model takes as arguments (R8), and the free
values: constants with no body, which nothing can evaluate. -/

namespace Sys2Proof

namespace Config

/-- Main RAM is 2 MiB (00_scope R7). -/
def ramSize : Nat := 0x200000

/-- BIOS ROM is 512 KiB (00_scope R7). -/
def biosSize : Nat := 0x80000

/-- VRAM is 1 MiB (00_scope R7). -/
def vramSize : Nat := 0x100000

/-- Reset address (00_scope R7). -/
def resetPc : Word := 0xBFC00000

/-- Exception vector with BEV = 0 (60_exceptions R302). -/
def vectorRam : Word := 0x80000080

/-- Exception vector with BEV = 1 (60_exceptions R302). -/
def vectorBios : Word := 0xBFC00180

/-- CPU clock in Hz (00_scope R7). -/
def cpuHz : Nat := 33868800

/-- NTSC dot clock in Hz (00_scope R7). -/
def dotHz : Nat := 25175000

/-- CPU cycles charged to one step (70_reset_and_hazards R560, D26). -/
def cyclesPerStep : Nat := 1

/-- CPU steps in a video frame: 33,868,800 / 60 (70_reset_and_hazards R563, conflict C7). -/
def frameSteps : Nat := 564480

/-- Length of a raw CD sector and of the controller's data buffer (00_scope R7). -/
def sectorBytes : Nat := 2352

/-- Depth of the CD-ROM parameter and response FIFOs (00_scope R7). -/
def cdFifoDepth : Nat := 16

/-- Free value `k` of a run: a 32-bit value the spec leaves open where it is read (treatment `any value`: U7, U10, U13).
No body: nothing is known of it. DESIGN CHOICE, log 6. -/
opaque freeWord : Nat → Word

/-- The byte of RAM at an offset that nothing has written since power-on: any value, fixed for the run (U3). Log 2. -/
opaque ramPowerOn : Nat → Byte

/-- The byte of VRAM at an offset that nothing has written since power-on: any value, fixed for the run (U3). Log 3. -/
opaque vramPowerOn : Nat → Byte

/-- The host's BIOS image, an argument of the model (00_scope R9 port 1). Log 4. -/
opaque biosImage : Nat → Byte

/-- The byte of the CD-ROM data buffer at a position that no sector has filled (10_state R60). Log 5. -/
opaque cdBufferPowerOn : Nat → Byte

end Config

/-- Where a run ends, which a model must define itself (40_cpu_step R174): the machine has no halt instruction and no halted
state. U22 gives a number of steps or of frames, R174 an address that `pc` reaches. DESIGN CHOICE, log 25. -/
inductive RunEnd where
  /-- After this many CPU steps since reset. -/
  | steps (n : Nat)
  /-- After this many video frames since reset. -/
  | frames (n : Nat)
  /-- At a step that would start with `pc` at this address. -/
  | pcReaches (address : Word)
  deriving DecidableEq, Repr

/-- The parameters the source leaves open (00_scope R8; U22 to U27), held as plain data so that a statement about every state
is a statement about every choice of them. No instruction changes them. Log 7. -/
structure Params where
  /-- DEV_QUANTUM: CPU steps between two advances of the devices (70_reset_and_hazards R560). -/
  devQuantum : Nat
  /-- HBLANK_HZ, a positive rational: numerator (62_timers R387). -/
  hblankNum : Nat
  /-- HBLANK_HZ: denominator. -/
  hblankDen : Nat
  /-- CD_DELAY_READN in CPU cycles (63_cdrom R430). -/
  cdDelayReadN : Nat
  /-- CD_DELAY_SEEKL in CPU cycles (63_cdrom R430). -/
  cdDelaySeekL : Nat
  /-- CD_DELAY_GETID in CPU cycles, at most 10,000 (63_cdrom R430). -/
  cdDelayGetId : Nat
  /-- EXT_IRQ: the environment may request lines 0, 1, 7, 8, 9, 10 (60_exceptions R310). -/
  extIrq : Bool
  /-- LOAD_DISCARD (40_cpu_step R167). -/
  loadDiscard : Bool
  /-- MFC0_DELAYED (47_system_cop0 R272). -/
  mfc0Delayed : Bool
  /-- The end of a run (40_cpu_step R174, U22). -/
  runEnd : RunEnd
  deriving DecidableEq, Repr

/-- What the spec asks of the parameters: DEV_QUANTUM a positive divisor of FRAME_STEPS, HBLANK_HZ a positive rational at most
CPU_HZ, each delay at least 1 and GetID's at most 10,000 (U23, U24, U25). -/
def Params.wellFormed (p : Params) : Bool :=
  0 < p.devQuantum && Config.frameSteps % p.devQuantum == 0 &&
  0 < p.hblankNum && 0 < p.hblankDen && p.hblankNum ≤ Config.cpuHz * p.hblankDen &&
  1 ≤ p.cdDelayReadN && 1 ≤ p.cdDelaySeekL && 1 ≤ p.cdDelayGetId && p.cdDelayGetId ≤ 10000

/-- The parameters a run from reset takes: devices move with every step (the hardware-like quantum), HBlank at the NTSC line
rate, CD-ROM delays of 1000 cycles, no external interrupts, the two values the spec decides (D10, D11), and one frame for the
length of a run. DESIGN CHOICE and PRESUMED, log 7 to 11 and 25. -/
def Params.atReset : Params where
  devQuantum := 1
  hblankNum := 15734
  hblankDen := 1
  cdDelayReadN := 1000
  cdDelaySeekL := 1000
  cdDelayGetId := 1000
  extIrq := false
  loadDiscard := true
  mfc0Delayed := true
  runEnd := .frames 1

end Sys2Proof
end

