-- ==== Sys2Proof/Machine/State.lean ====
section
/-! DEFINITION. The machine's state as plain data (10_state), what stops a step, and the state after reset (10_state R60). -/

namespace Sys2Proof
namespace Machine

/-! ## Stores -/

/-- A byte store: (offset, byte) cells at strictly rising offsets. An offset that is not listed holds no value written since
power-on; what it then reads as is the store's own power-on byte (log 2 to 4). -/
abbrev Memory := List Host.Cell

/-! ## CPU -/

/-- The pending-load slot (10_state R30). -/
structure PendingLoad where
  index : Reg
  value : Word
  deriving DecidableEq, Repr

/-- The eight exceptions of 60_exceptions R290. -/
inductive Exception where
  | interrupt
  | addressErrorLoad
  | addressErrorStore
  | syscall
  | breakpoint
  | reservedInstruction
  | coprocessorUnusable
  | overflow
  deriving DecidableEq, Repr

/-! ## DMA controller -/

/-- The registers of one DMA channel (61_dma R342, R343). -/
structure DmaChannel where
  madr : BitVec 24
  bcr : Word
  chcr : Word
  deriving DecidableEq, Repr

/-- The DMA controller (10_state R50). -/
structure Dma where
  channels : Vector DmaChannel 7
  dpcr : Word
  dicr : Word
  deriving DecidableEq, Repr

/-! ## Timers -/

/-- One interval timer (10_state R51). `frac` is the numerator of the retained fraction over
`CPU_HZ * hblankDen` (62_timers R388; log 13). -/
structure Timer where
  counter : BitVec 16
  mode : BitVec 10
  target : BitVec 16
  targetFlag : Bool
  overflowFlag : Bool
  requestLatch : Bool
  frac : Nat
  deriving DecidableEq, Repr

/-! ## CD-ROM controller -/

/-- The five values of `cd_state` (10_state R52, conflict C5). -/
inductive CdState where
  | idle
  | cmdExec
  | reading
  | getIdPending
  | error
  deriving DecidableEq, Repr

/-- A SectorSource (00_scope R9 port 2) as plain data: its presence flag and its sectors by LBA. An LBA with no record, or
whose record is not 2352 bytes long, is a failed read (U21; log 15). -/
structure SectorSource where
  present : Bool
  sectors : List (Int × List Byte)
  deriving DecidableEq, Repr

/-- The CD-ROM controller (10_state R52). `dataBuf` holds the bytes that sectors have filled, from position 0. -/
structure Cdrom where
  paramFifo : List Byte
  responseFifo : List Byte
  dataBuf : List Byte
  dataPos : Nat
  dataLen : Nat
  cdState : CdState
  index : BitVec 2
  irqEnable : BitVec 5
  irqFlags : BitVec 5
  doubleSpeed : Bool
  sector2340 : Bool
  targetLba : Word
  pendingCmd : Byte
  delay : Nat
  discPresent : Bool
  source : Option SectorSource
  busy : Bool
  playing : Bool
  cdError : Bool
  deriving DecidableEq, Repr

/-! ## GPU -/

/-- The three GP0 modes (10_state R53). -/
inductive Gp0Mode where
  | command
  | imageLoad
  | vramToCpu
  deriving DecidableEq, Repr

/-- An image transfer: origin, cursor relative to it, size, data words still expected (10_state R55). -/
structure Transfer where
  x : Nat
  y : Nat
  col : Nat
  row : Nat
  w : Nat
  h : Nat
  words : Nat
  deriving DecidableEq, Repr

/-- The GPU's command, draw, display and transfer state (10_state R53 to R55). -/
structure Gpu where
  cmdBuf : List Word
  cmdRemaining : Nat
  cmdOpcode : Byte
  gp0Mode : Gp0Mode
  pageBaseX : BitVec 4
  pageBaseY : BitVec 1
  semiTransparency : BitVec 2
  textureDepth : BitVec 2
  dithering : BitVec 1
  drawToDisplay : BitVec 1
  forceSetMask : BitVec 1
  preserveMasked : BitVec 1
  field : BitVec 1
  textureDisable : BitVec 1
  hres1 : BitVec 2
  hres2 : BitVec 1
  vres : BitVec 1
  vmode : BitVec 1
  displayDepth : BitVec 1
  interlaced : BitVec 1
  displayDisabled : BitVec 1
  gpuIrq : BitVec 1
  dmaDirection : BitVec 2
  drawLeft : BitVec 10
  drawTop : BitVec 10
  drawRight : BitVec 10
  drawBottom : BitVec 10
  offsetX : BitVec 11
  offsetY : BitVec 11
  twMaskX : BitVec 5
  twMaskY : BitVec 5
  twOffsetX : BitVec 5
  twOffsetY : BitVec 5
  dispX : BitVec 10
  dispY : BitVec 9
  dispHStart : BitVec 12
  dispHEnd : BitVec 12
  dispVStart : BitVec 10
  dispVEnd : BitVec 10
  ld : Transfer
  rd : Transfer
  deriving DecidableEq, Repr

/-- A vertex position, signed 16-bit coordinates (64_gpu R490). -/
structure Vertex where
  x : Int
  y : Int
  deriving DecidableEq, Repr

/-- A colour, 8 bits a channel (64_gpu R490). -/
structure Colour where
  r : Byte
  g : Byte
  b : Byte
  deriving DecidableEq, Repr

/-- The events of the RenderingBackend port (64_gpu R490). -/
inductive Event where
  | triangle (p0 p1 p2 : Vertex) (c0 c1 c2 : Colour)
  | setDrawOffset (x y : Int)
  | present
  deriving DecidableEq, Repr

/-! ## The environment -/

/-- What the environment may do between two steps besides the scheduled device advance (70_reset_and_hazards R564). -/
inductive EnvAction where
  | loadDisc (source : SectorSource)
  | requestIrq (line : Nat)
  deriving DecidableEq, Repr

/-! ## What stops a step -/

/-- Model faults: the behaviours the spec treats as a fault or as stuck. Each stops the model where the source is silent or
where the machine never finishes; all are safe (log 14, 18). -/
inductive Fault where
  /-- Raised by a GP0 write that opens a command whose opcode is not in 64_gpu R471 (U9). Safe. -/
  | gp0UnknownOpcode
  /-- Raised by a GP0 write while the GP0 mode is VRAMToCPU (64_gpu R473, U13). Safe. -/
  | gp0WriteDuringRead
  /-- Raised by a GP1 write whose opcode is not 0x00 to 0x08 (64_gpu R515, U9). Safe. -/
  | gp1UnknownOpcode
  /-- Raised by the store that starts a DMA linked list with no end marker: the store never completes (61_dma R359, U8). Safe. -/
  | linkedListNeverEnds
  deriving DecidableEq, Repr

/-- Refusals: the words and DMA configurations the spec asks a model to refuse. All are safe (log 17, 19). -/
inductive Refusal where
  /-- Raised by an arm of `exec` whose instruction has no meaning yet. Safe. -/
  | notModelled (mnemonic : String)
  /-- Raised by an instruction of the refused class: outside the document's required set, given no meaning (30_encoding R141,
  U1). Safe. -/
  | outsideRequiredSet (mnemonic : String)
  /-- Raised by a word with `op` = 0x01 and another `rt` selector (30_encoding R139, R141, U1). Safe. -/
  | regimmSelector
  /-- Raised by a word with `op` = 0x10 and another sub-opcode (30_encoding R139, R141, U1). Safe. -/
  | cop0SubOpcode
  /-- Raised by the store that activates a DMA channel in linked-list mode elsewhere than channel 2 from RAM, or with
  sync = 3 (61_dma R356, U4). Safe. -/
  | dmaSyncMode (channel : Nat)
  /-- Raised by the store that activates a DMA channel whose device end for that direction is not described (61_dma R357,
  R358, U6). Safe. -/
  | dmaDeviceEnd (channel : Nat)
  deriving DecidableEq, Repr

/-! ## The state -/

/-- Everything the spec gives the machine (10_state), the run's step counter and output trace (70_reset_and_hazards R560,
64_gpu R490), and three fields of the model's own: `freeCount`, `params`, `inputs` (log 6, 7, 10). -/
structure State where
  /-- x[0] to x[31] (R20). -/
  regs : Vector Word 32
  /-- Address the step fetches; during execute, the address the next step fetches (R23). -/
  pc : Word
  /-- Address after `pc` in execution order (R23). -/
  nextPc : Word
  /-- Address of the executing instruction (R23). -/
  currentPc : Word
  hi : Word
  lo : Word
  /-- The pending-load slot (R30). -/
  pending : PendingLoad
  /-- COP0 register 12 (R41). -/
  sr : Word
  /-- COP0 register 13 (R42). -/
  cause : Word
  /-- COP0 register 14 (R43). -/
  epc : Word
  /-- COP0 register 8 (R44). -/
  badVaddr : Word
  /-- I_STAT (R46). -/
  iStat : BitVec 11
  /-- I_MASK (R46). -/
  iMask : BitVec 11
  /-- Main RAM (R47). -/
  ram : Memory
  /-- BIOS ROM (R48). -/
  bios : Memory
  /-- VRAM (R49). -/
  vram : Memory
  dma : Dma
  timers : Vector Timer 3
  cd : Cdrom
  gpu : Gpu
  /-- Events sent to the RenderingBackend, oldest first (64_gpu R490). -/
  trace : List Event
  /-- CPU steps taken: `n` of the run loop (70_reset_and_hazards R560). -/
  stepCount : Nat
  /-- Free values drawn so far (the model's own; log 6). -/
  freeCount : Nat
  /-- The open parameters (the model's own place for 00_scope R8; log 7). -/
  params : Params
  /-- The environment's actions at the coming step boundaries, nearest first (the model's own; log 10). -/
  inputs : List (List EnvAction)
  deriving DecidableEq, Repr

/-! ## Reset (10_state R60) -/

/-- A DMA channel after reset (61_dma R362). -/
def DmaChannel.reset : DmaChannel where
  madr := 0
  bcr := 0
  chcr := 0

/-- The DMA controller after reset (61_dma R362). -/
def Dma.reset : Dma where
  channels := Vector.replicate 7 DmaChannel.reset
  dpcr := 0x07654321
  dicr := 0

/-- A timer after reset (62_timers R396). -/
def Timer.reset : Timer where
  counter := 0
  mode := 0
  target := 0
  targetFlag := false
  overflowFlag := false
  requestLatch := false
  frac := 0

/-- The CD-ROM controller after reset (63_cdrom R461). -/
def Cdrom.reset : Cdrom where
  paramFifo := []
  responseFifo := []
  dataBuf := []
  dataPos := 0
  dataLen := 0
  cdState := .idle
  index := 0
  irqEnable := 0
  irqFlags := 0
  doubleSpeed := false
  sector2340 := false
  targetLba := 0
  pendingCmd := 0
  delay := 0
  discPresent := false
  source := none
  busy := false
  playing := false
  cdError := false

/-- An image-transfer record after reset (64_gpu R527). -/
def Transfer.reset : Transfer where
  x := 0
  y := 0
  col := 0
  row := 0
  w := 0
  h := 0
  words := 0

/-- The GPU after power-on and after GP1 0x00 (64_gpu R527). -/
def Gpu.reset : Gpu where
  cmdBuf := []
  cmdRemaining := 0
  cmdOpcode := 0
  gp0Mode := .command
  pageBaseX := 0
  pageBaseY := 0
  semiTransparency := 0
  textureDepth := 0
  dithering := 0
  drawToDisplay := 0
  forceSetMask := 0
  preserveMasked := 0
  field := 0
  textureDisable := 0
  hres1 := 0
  hres2 := 0
  vres := 0
  vmode := 0
  displayDepth := 0
  interlaced := 0
  displayDisabled := 1
  gpuIrq := 0
  dmaDirection := 0
  drawLeft := 0
  drawTop := 0
  drawRight := 0
  drawBottom := 0
  offsetX := 0
  offsetY := 0
  twMaskX := 0
  twMaskY := 0
  twOffsetX := 0
  twOffsetY := 0
  dispX := 0
  dispY := 0
  dispHStart := 0x200
  dispHEnd := 0xC00
  dispVStart := 0x010
  dispVEnd := 0x100
  ld := Transfer.reset
  rd := Transfer.reset

/-- The state after reset (10_state R60). x[1] to x[31], HI, LO, EPC, BadVAddr and current_pc, which the spec leaves
unspecified, are 0: DESIGN CHOICE, unsafe, log 1. The stores list nothing: every byte is the store's power-on byte. -/
def State.reset : State where
  regs := Vector.replicate 32 0
  pc := Config.resetPc
  nextPc := Config.resetPc + 4
  currentPc := 0
  hi := 0
  lo := 0
  pending := { index := 0, value := 0 }
  sr := 0x00400000
  cause := 0
  epc := 0
  badVaddr := 0
  iStat := 0
  iMask := 0
  ram := []
  bios := []
  vram := []
  dma := Dma.reset
  timers := Vector.replicate 3 Timer.reset
  cd := Cdrom.reset
  gpu := Gpu.reset
  trace := []
  stepCount := 0
  freeCount := 0
  params := Params.atReset
  inputs := []

end Machine
end Sys2Proof
end

