-- ==== Sys2Proof/Machine/Bits.lean ====
section
/-! DEFINITION. Bit fields of a register (00_scope R11) and the chaining of outcomes. -/

namespace Sys2Proof
namespace Machine

/-- `w[i]` as a truth value (00_scope R11). -/
def testBit {n : Nat} (w : BitVec n) (i : Nat) : Bool := w.getLsbD i

/-- A 32-bit word with ones in the `len` bits from bit `lo` up. -/
def fieldMask (lo len : Nat) : Word := (BitVec.allOnes len).setWidth 32 <<< lo

/-- `w[lo + len - 1 : lo] <- v`: one field replaced, every other bit kept (00_scope R11). -/
def setField (w : Word) (lo : Nat) {len : Nat} (v : BitVec len) : Word :=
  (w &&& ~~~(fieldMask lo len)) ||| (v.setWidth 32 <<< lo)

/-- `w[i] <- b`. -/
def setBit (w : Word) (i : Nat) (b : Bool) : Word := setField w i (BitVec.ofBool b)

/-- What a step, an instruction or a store answers. -/
abbrev Result := Host.Outcome State Fault Refusal

/-- Go on from a next state; a stop stays. -/
def andThen (r : Result) (f : State → Result) : Result :=
  match r with
  | .next s => f s
  | .fault e => .fault e
  | .refused e => .refused e

end Machine
end Sys2Proof
end

