-- ==== Sys2Proof/Machine/Stores.lean ====
section
/-! DEFINITION. The byte stores: sparse cells in canonical form, little-endian accessors (20_memory R75), and main RAM, the BIOS
ROM and VRAM over them (10_state R47 to R49). -/

namespace Sys2Proof
namespace Machine

/-! ## Cells -/

/-- The listed byte at an offset, if any. -/
def Memory.lookup : Memory → Nat → Option Byte
  | [], _ => none
  | (a, v) :: rest, k => if a = k then some v else Memory.lookup rest k

/-- Store a byte, keeping the cells in order of offset. -/
def Memory.store : Memory → Nat → Byte → Memory
  | [], k, v => [(k, v)]
  | (a, u) :: rest, k, v =>
    if k < a then (k, v) :: (a, u) :: rest
    else if k = a then (k, v) :: rest
    else (a, u) :: Memory.store rest k v

/-- Offsets strictly rise from `low` on and stay below `size`. -/
def Memory.risesFrom (size : Nat) : Nat → Memory → Bool
  | _, [] => true
  | low, (a, _) :: rest => decide (low ≤ a) && decide (a < size) && Memory.risesFrom size (a + 1) rest

/-- The canonical form: strictly rising offsets inside the store. An unlisted offset holds no value, so no cell can repeat what
an unlisted offset holds. -/
def Memory.wf (size : Nat) (m : Memory) : Bool := Memory.risesFrom size 0 m

/-- Store the low `n` bytes of a word at `k`, `k + 1`, ..., the least significant first (20_memory R75). -/
def Memory.storeBytes : Memory → Nat → (n : Nat) → Word → Memory
  | m, _, 0, _ => m
  | m, k, n + 1, v => Memory.storeBytes (Memory.store m k (v.extractLsb' 0 8)) (k + 1) n (v >>> 8)

/-- The little-endian number of the `n` bytes that `byteAt` gives from `k` on (20_memory R75), for `n` up to 4. -/
def readBytes (byteAt : Nat → Byte) : Nat → (n : Nat) → Word
  | _, 0 => 0
  | k, n + 1 => (byteAt k).setWidth 32 ||| (readBytes byteAt (k + 1) n <<< 8)

/-! ## Main RAM (10_state R47) -/

/-- The byte of main RAM at an offset: the byte last written, else the power-on byte; 0 outside the store ("RAM and VRAM reject
out-of-bounds offsets (returning 0 ...)"). -/
def State.ramByte (s : State) (k : Nat) : Byte :=
  if k < Config.ramSize then (s.ram.lookup k).getD (Config.ramPowerOn k) else 0

/-- Read `n` bytes of main RAM. -/
def State.ramRead (s : State) (k n : Nat) : Word := readBytes s.ramByte k n

/-- Write `n` bytes of main RAM; a write that would leave the store is dropped. -/
def State.ramWrite (s : State) (k n : Nat) (v : Word) : State :=
  if k + n ≤ Config.ramSize then { s with ram := s.ram.storeBytes k n v } else s

/-! ## BIOS ROM (10_state R48) -/

/-- The byte of the BIOS image at an offset. -/
def State.biosByte (s : State) (k : Nat) : Byte := (s.bios.lookup k).getD (Config.biosImage k)

/-- Read `n` bytes of the BIOS ROM. -/
def State.biosRead (s : State) (k n : Nat) : Word := readBytes s.biosByte k n

/-! ## VRAM (10_state R49) -/

/-- The byte of VRAM at an offset; 0 outside the store. -/
def State.vramByte (s : State) (k : Nat) : Byte :=
  if k < Config.vramSize then (s.vram.lookup k).getD (Config.vramPowerOn k) else 0

/-- Byte offset of pixel (x, y): row-major, two bytes a pixel (10_state R49). -/
def pixelOffset (x y : Nat) : Nat := 2 * (1024 * y + x)

/-- Pixel (x, y), low byte first (10_state R49). -/
def State.pixel (s : State) (x y : Nat) : Half :=
  s.vramByte (pixelOffset x y + 1) ++ s.vramByte (pixelOffset x y)

/-- Write pixel (x, y); a write that would leave the store is dropped. -/
def State.setPixel (s : State) (x y : Nat) (v : Half) : State :=
  if pixelOffset x y + 2 ≤ Config.vramSize then
    { s with vram := s.vram.storeBytes (pixelOffset x y) 2 (v.setWidth 32) }
  else s

/-! ## Free values -/

/-- Draw a free 32-bit value: the treatment `any value` of 93_implementation_defined, which "may differ per read". Log 6. -/
def State.drawWord (s : State) : Word × State :=
  (Config.freeWord s.freeCount, { s with freeCount := s.freeCount + 1 })

end Machine
end Sys2Proof
end

