-- ==== Sys2Proof/Machine/Irq.lean ====
section
/-! DEFINITION. The interrupt controller: I_STAT, I_MASK and the aggregated line (60_exceptions R310 to R314). -/

namespace Sys2Proof
namespace Machine

/-- `request_irq(k)`: set the latch of line `k`, 0 to 10, whatever I_MASK holds (60_exceptions R312). -/
def State.requestIrq (s : State) (line : Nat) : State :=
  { s with iStat := s.iStat ||| ((1#11) <<< line) }

/-- The aggregated flag delivered to the CPU (60_exceptions R314). -/
def State.irqLine (s : State) : Bool := (s.iStat &&& s.iMask) != 0

/-- A write to I_STAT acknowledges: a bit written as 1 is cleared (60_exceptions R313). -/
def State.writeIStat (s : State) (v : Word) : State :=
  { s with iStat := s.iStat &&& ~~~(v.extractLsb' 0 11) }

/-- A write to I_MASK stores the low 11 bits (60_exceptions R313). -/
def State.writeIMask (s : State) (v : Word) : State :=
  { s with iMask := v.extractLsb' 0 11 }

end Machine
end Sys2Proof
end

