-- ==== Sys2Proof/Machine/Cdrom.lean ====
section
/-! DEFINITION. The CD-ROM controller: registers, status bytes, responses, the ten commands, delayed completion (63_cdrom). -/

namespace Sys2Proof
namespace Machine

/-- Replace the controller's state. -/
def State.setCd (s : State) (c : Cdrom) : State := { s with cd := c }

/-! ## The two status bytes -/

/-- The host status byte, read at offset 0 (63_cdrom R420). -/
def Cdrom.hostStatus (c : Cdrom) : Byte :=
  BitVec.ofBool c.busy ++ BitVec.ofBool (decide (c.dataPos < c.dataLen)) ++ BitVec.ofBool (!c.responseFifo.isEmpty) ++
    BitVec.ofBool (decide (c.paramFifo.length < Config.cdFifoDepth)) ++ BitVec.ofBool c.paramFifo.isEmpty ++ 0#1 ++ c.index

/-- The drive status byte `stat`, pushed by commands (63_cdrom R421). -/
def Cdrom.stat (c : Cdrom) : Byte :=
  BitVec.ofBool c.playing ++ 0#1 ++ BitVec.ofBool (c.cdState == .reading) ++ 0#3 ++
    BitVec.ofBool c.discPresent ++ BitVec.ofBool c.cdError

/-! ## Interrupts and responses -/

/-- Flag bit of interrupt code 1 to 5 (63_cdrom R425). -/
def cdFlag (code : Nat) : BitVec 5 := (1#5) <<< (code - 1)

/-- `trigger_interrupt(c)`: set the flag; request line 2 when it is enabled (63_cdrom R425). -/
def State.cdTrigger (s : State) (code : Nat) : State :=
  let s' := s.setCd { s.cd with irqFlags := s.cd.irqFlags ||| cdFlag code }
  if (s.cd.irqEnable &&& cdFlag code) != 0 then s'.requestIrq 2 else s'

/-- `respond(c, bytes)`: empty the response FIFO, push the bytes that fit, trigger the code (63_cdrom R426). -/
def State.cdRespond (s : State) (code : Nat) (bytes : List Byte) : State :=
  (s.setCd { s.cd with responseFifo := bytes.take Config.cdFifoDepth }).cdTrigger code

/-- `fail(e, pad)`: end a command in error (63_cdrom R427). -/
def State.cdFail (s : State) (e : Byte) (pad : Nat) : State :=
  let s1 := s.setCd { s.cd with cdError := true }
  let s2 := s1.cdRespond 5 ([s1.cd.stat, e] ++ List.replicate pad 0)
  s2.setCd { s2.cd with cdState := .error, busy := false, pendingCmd := 0, delay := 0 }

/-- The conclusion of a command: `respond(2, bytes); busy <- 0; cd_state <- Idle`. -/
def State.cdComplete (s : State) (bytes : List Byte) : State :=
  let s1 := s.cdRespond 2 bytes
  s1.setCd { s1.cd with busy := false, cdState := .idle }

/-- Set a pending conclusion with its delay (63_cdrom R430). -/
def State.cdSchedule (s : State) (cmd : Byte) (delay : Nat) (cdState : CdState) : State :=
  s.setCd { s.cd with cdState := cdState, pendingCmd := cmd, delay := delay }

/-! ## Commands -/

/-- A BCD byte as a number; digits above 9 are not rejected (63_cdrom R436). -/
def bcd (b : Byte) : Int := ((b.extractLsb' 4 4).toNat * 10 + (b.extractLsb' 0 4).toNat : Nat)

/-- The LBA of minute, second, frame: `(m * 60 + s) * 75 + f - 150` (63_cdrom R436). -/
def msfToLba (m sec f : Byte) : Int := (bcd m * 60 + bcd sec) * 75 + bcd f - 150

/-- 0x01 GetStat (63_cdrom R435): no second response. -/
def State.cdGetStat (s : State) : State := s.setCd { s.cd with busy := false, cdState := .idle }

/-- 0x02 SetLoc (63_cdrom R436). -/
def State.cdSetLoc (s : State) : State :=
  match s.cd.paramFifo with
  | m :: sec :: f :: _ =>
    let s1 := s.setCd { s.cd with targetLba := BitVec.ofInt 32 (msfToLba m sec f) }
    s1.cdComplete [s1.cd.stat]
  | _ => s.cdFail 0x40 0

/-- 0x06 ReadN, setup (63_cdrom R437). -/
def State.cdReadN (s : State) : State :=
  if s.cd.discPresent then s.cdSchedule 0x06 s.params.cdDelayReadN .reading else s.cdFail 0x80 0

/-- 0x08 Stop (63_cdrom R439): clear playing and the data buffer. -/
def State.cdStop (s : State) : State :=
  let s1 := s.setCd { s.cd with playing := false, dataPos := 0, dataLen := 0 }
  s1.cdComplete [s1.cd.stat]

/-- 0x0A Init (63_cdrom R441): clear both mode flags, the enable and the flags register. -/
def State.cdInit (s : State) : State :=
  let s1 := s.setCd { s.cd with doubleSpeed := false, sector2340 := false, irqEnable := 0, irqFlags := 0 }
  s1.cdComplete [s1.cd.stat]

/-- 0x0E SetMode (63_cdrom R442). -/
def State.cdSetMode (s : State) : State :=
  match s.cd.paramFifo with
  | [] => s.cdFail 0x40 0
  | b :: _ =>
    let s1 := s.setCd { s.cd with doubleSpeed := testBit b 7, sector2340 := testBit b 5 }
    s1.cdComplete [s1.cd.stat]

/-- 0x15 SeekL, setup (63_cdrom R443): `cd_state` stays CmdExec. -/
def State.cdSeekL (s : State) : State := s.cdSchedule 0x15 s.params.cdDelaySeekL s.cd.cdState

/-- 0x19 Test (63_cdrom R444): subcommand 0x20 answers the date and version. -/
def State.cdTest (s : State) : State :=
  match s.cd.paramFifo with
  | [] => s.cdFail 0x40 0
  | sub :: _ => if sub = 0x20#8 then s.cdComplete [0x97, 0x01, 0x10, 0xC2] else s.cdFail 0x20 0

/-- 0x1A GetID, setup (63_cdrom R445). -/
def State.cdGetId (s : State) : State := s.cdSchedule 0x1A s.params.cdDelayGetId .getIdPending

/-- The part of a command that its byte selects (63_cdrom R428, R435 to R446). -/
def State.cdDispatch (s : State) (c : Byte) : State :=
  match c with
  | 0x01#8 => s.cdGetStat
  | 0x02#8 => s.cdSetLoc
  | 0x06#8 => s.cdReadN
  | 0x08#8 => s.cdStop
  | 0x09#8 => s.cdStop
  | 0x0A#8 => s.cdInit
  | 0x0E#8 => s.cdSetMode
  | 0x15#8 => s.cdSeekL
  | 0x19#8 => s.cdTest
  | 0x1A#8 => s.cdGetId
  | _ => s.cdFail 0x40 0

/-- Command write (63_cdrom R428): cancel what is pending, go busy, acknowledge with INT3, run the command, empty the
parameter FIFO. -/
def State.cdCommand (s : State) (c : Byte) : State :=
  let s1 := s.setCd { s.cd with delay := 0, pendingCmd := 0, cdError := false, busy := true, cdState := .cmdExec }
  let s2 := (s1.cdRespond 3 [s1.cd.stat]).cdDispatch c
  s2.setCd { s2.cd with paramFifo := [] }

/-! ## Delayed completion -/

/-- `read_sector(lba)`: 2352 bytes, or a failure (00_scope R9, U21). -/
def SectorSource.readSector (source : SectorSource) (lba : Int) : Option (List Byte) :=
  match source.sectors.find? (fun r => r.1 = lba) with
  | some (_, bytes) => if bytes.length = Config.sectorBytes then some bytes else none
  | none => none

/-- The sector the bound source gives at the target LBA. -/
def Cdrom.readTarget (c : Cdrom) : Option (List Byte) :=
  match c.source with
  | some src => src.readSector c.targetLba.toInt
  | none => none

/-- The part of a raw sector that goes to the data buffer: 2340 bytes from offset 12, or 2048 from 24 (63_cdrom R438). -/
def Cdrom.userBytes (c : Cdrom) (sector : List Byte) : List Byte :=
  if c.sector2340 then (sector.drop 12).take 2340 else (sector.drop 24).take 2048

/-- ReadN, completion (63_cdrom R438): INT1 while still Reading, then INT2 from Idle. -/
def State.cdConcludeReadN (s : State) : State :=
  match s.cd.readTarget with
  | none => s.cdFail 0x20 0
  | some sector =>
    let bytes := s.cd.userBytes sector
    let s1 := s.setCd { s.cd with
      dataBuf := bytes ++ s.cd.dataBuf.drop bytes.length, dataLen := bytes.length, dataPos := 0 }
    let s2 := s1.cdRespond 1 [s1.cd.stat]
    let s3 := s2.setCd { s2.cd with cdState := .idle, busy := false }
    let s4 := s3.cdRespond 2 [s3.cd.stat]
    s4.setCd { s4.cd with targetLba := s4.cd.targetLba + 1 }

/-- GetID, completion (63_cdrom R445). -/
def State.cdConcludeGetId (s : State) : State :=
  if s.cd.discPresent then s.cdComplete [s.cd.stat, 0x02, 0x00, 0x00, 0x53, 0x43, 0x45, 0x41] else s.cdFail 0x80 6

/-- `conclude(p)`: the completion half of the pending command, then nothing is pending (63_cdrom R430). -/
def State.cdConclude (s : State) (p : Byte) : State :=
  let s1 := match p with
    | 0x06#8 => s.cdConcludeReadN
    | 0x15#8 => s.cdComplete [s.cd.stat]
    | 0x1A#8 => s.cdConcludeGetId
    | _ => s
  s1.setCd { s1.cd with pendingCmd := 0 }

/-- `cdrom_advance(cycles)` (63_cdrom R430). -/
def State.cdAdvance (s : State) (cycles : Nat) : State :=
  if s.cd.delay = 0 then s
  else if s.cd.delay ≤ cycles then (s.setCd { s.cd with delay := 0 }).cdConclude s.cd.pendingCmd
  else s.setCd { s.cd with delay := s.cd.delay - cycles }

/-! ## Registers (63_cdrom R411) -/

/-- Response-FIFO pop: the oldest byte, or 0 when empty (63_cdrom R415). -/
def State.cdPopResponse (s : State) : Byte × State :=
  match s.cd.responseFifo with
  | [] => (0, s)
  | b :: rest => (b, s.setCd { s.cd with responseFifo := rest })

/-- The byte of the data buffer at a position (10_state R52). -/
def Cdrom.dataByte (c : Cdrom) (k : Nat) : Byte := (c.dataBuf[k]?).getD (Config.cdBufferPowerOn k)

/-- Data-buffer pop: the byte at the cursor, or 0 when none is left (63_cdrom R416). -/
def State.cdPopData (s : State) : Byte × State :=
  if s.cd.dataPos < s.cd.dataLen then
    (s.cd.dataByte s.cd.dataPos, s.setCd { s.cd with dataPos := s.cd.dataPos + 1 })
  else (0, s)

/-- Four data-buffer pops as one word, the first byte lowest (61_dma R357). -/
def State.cdPopWord (s : State) : Word × State :=
  let (b0, s0) := s.cdPopData
  let (b1, s1) := s0.cdPopData
  let (b2, s2) := s1.cdPopData
  let (b3, s3) := s2.cdPopData
  (b3 ++ b2 ++ b1 ++ b0, s3)

/-- What a read of offset 3 returns (63_cdrom R418). -/
def Cdrom.interruptByte (c : Cdrom) : Byte :=
  0xE0#8 ||| (if testBit c.index 0 then c.irqFlags else c.irqEnable).setWidth 8

/-- Read at offset 0 to 3 (63_cdrom R411). -/
def State.cdRead (s : State) (off : Nat) : Byte × State :=
  match off with
  | 0 => (s.cd.hostStatus, s)
  | 1 => s.cdPopResponse
  | 2 => s.cdPopData
  | 3 => (s.cd.interruptByte, s)
  | _ => (0, s)

/-- Parameter push; a byte beyond the sixteenth is dropped (63_cdrom R417). -/
def Cdrom.pushParam (c : Cdrom) (v : Byte) : Cdrom :=
  if c.paramFifo.length < Config.cdFifoDepth then { c with paramFifo := c.paramFifo ++ [v] } else c

/-- Interrupt-flag acknowledge: a 1 clears its flag, bit 6 clears all (63_cdrom R413). -/
def Cdrom.acknowledge (c : Cdrom) (v : Byte) : Cdrom :=
  { c with irqFlags := if testBit v 6 then 0 else c.irqFlags &&& ~~~(v.extractLsb' 0 5) }

/-- The request register: bit 7 empties the parameter FIFO (63_cdrom R414). -/
def Cdrom.request (c : Cdrom) (v : Byte) : Cdrom := if testBit v 7 then { c with paramFifo := [] } else c

/-- Write at offset 0 to 3, multiplexed by `cd_index` (63_cdrom R411, R412). -/
def State.cdWrite (s : State) (off : Nat) (v : Byte) : State :=
  match off, s.cd.index with
  | 0, _ => s.setCd { s.cd with index := v.extractLsb' 0 2 }
  | 1, 0#2 => s.cdCommand v
  | 2, 0#2 => s.setCd (s.cd.pushParam v)
  | 2, 1#2 => s.setCd { s.cd with irqEnable := v.extractLsb' 0 5 }
  | 3, 0#2 => s.setCd (s.cd.request v)
  | 3, 1#2 => s.setCd (s.cd.acknowledge v)
  | _, _ => s

/-! ## Host action -/

/-- `load_disc(source)`: bind the source; every other field takes its reset value (63_cdrom R460). -/
def State.loadDisc (s : State) (source : SectorSource) : State :=
  s.setCd { Cdrom.reset with source := some source, discPresent := source.present }

end Machine
end Sys2Proof
end

