-- ==== Sys2Proof/Machine/Gpu.lean ====
section
/-! DEFINITION. The GPU's command ports: GP0 assembler and commands, image transfers, GPUREAD, GP1, GPUSTAT (64_gpu). -/

namespace Sys2Proof
namespace Machine

/-- Replace the GPU's state. -/
def State.setGpu (s : State) (g : Gpu) : State := { s with gpu := g }

/-- Send one event to the RenderingBackend (64_gpu R490). -/
def State.emit (s : State) (e : Event) : State := { s with trace := s.trace ++ [e] }

/-! ## Drawing commands -/

/-- A vertex word: signed 16-bit x in the low half, y in the high half (64_gpu R490). -/
def vertex (w : Word) : Vertex where
  x := (w.extractLsb' 0 16).toInt
  y := (w.extractLsb' 16 16).toInt

/-- A colour word: r, g, b from the low byte up (64_gpu R490). -/
def colour (w : Word) : Colour where
  r := w.extractLsb' 0 8
  g := w.extractLsb' 8 8
  b := w.extractLsb' 16 8

/-- Word `k` of the assembled command. -/
def Gpu.word (g : Gpu) (k : Nat) : Word := g.cmdBuf.getD k 0

/-- A quad as two triangles, vertices (0, 1, 2) then (0, 2, 3) (64_gpu R490). -/
def State.emitQuad (s : State) (p0 p1 p2 p3 : Vertex) (c0 c1 c2 c3 : Colour) : State :=
  (s.emit (.triangle p0 p1 p2 c0 c1 c2)).emit (.triangle p0 p2 p3 c0 c2 c3)

/-- GP0 0x28, monochrome opaque quad (64_gpu R485). -/
def State.gp0MonoQuad (s : State) : State :=
  let w := s.gpu.word
  let c := colour (w 0)
  s.emitQuad (vertex (w 1)) (vertex (w 2)) (vertex (w 3)) (vertex (w 4)) c c c c

/-- GP0 0x2C, textured opaque quad with blend: the texture words are taken and not used (64_gpu R486). -/
def State.gp0TexturedQuad (s : State) : State :=
  let w := s.gpu.word
  let c := colour (w 0)
  s.emitQuad (vertex (w 1)) (vertex (w 3)) (vertex (w 5)) (vertex (w 7)) c c c c

/-- GP0 0x30, shaded opaque triangle (64_gpu R487). -/
def State.gp0ShadedTriangle (s : State) : State :=
  let w := s.gpu.word
  s.emit (.triangle (vertex (w 1)) (vertex (w 3)) (vertex (w 5)) (colour (w 0)) (colour (w 2)) (colour (w 4)))

/-- GP0 0x38, shaded opaque quad (64_gpu R488). -/
def State.gp0ShadedQuad (s : State) : State :=
  let w := s.gpu.word
  s.emitQuad (vertex (w 1)) (vertex (w 3)) (vertex (w 5)) (vertex (w 7))
    (colour (w 0)) (colour (w 2)) (colour (w 4)) (colour (w 6))

/-! ## Draw-state commands -/

/-- GP0 0xE1, draw mode / texture page (64_gpu R498). -/
def Gpu.drawMode (g : Gpu) (v : Word) : Gpu :=
  { g with
    pageBaseX := v.extractLsb' 0 4, pageBaseY := v.extractLsb' 4 1, semiTransparency := v.extractLsb' 5 2,
    textureDepth := v.extractLsb' 7 2, dithering := v.extractLsb' 9 1, drawToDisplay := v.extractLsb' 10 1,
    textureDisable := v.extractLsb' 11 1 }

/-- GP0 0xE2, texture window (64_gpu R499). -/
def Gpu.textureWindow (g : Gpu) (v : Word) : Gpu :=
  { g with
    twMaskX := v.extractLsb' 0 5, twMaskY := v.extractLsb' 5 5, twOffsetX := v.extractLsb' 10 5,
    twOffsetY := v.extractLsb' 15 5 }

/-- GP0 0xE3, drawing area top-left (64_gpu R500). -/
def Gpu.drawAreaTopLeft (g : Gpu) (v : Word) : Gpu :=
  { g with drawLeft := v.extractLsb' 0 10, drawTop := v.extractLsb' 10 10 }

/-- GP0 0xE4, drawing area bottom-right (64_gpu R501). -/
def Gpu.drawAreaBottomRight (g : Gpu) (v : Word) : Gpu :=
  { g with drawRight := v.extractLsb' 0 10, drawBottom := v.extractLsb' 10 10 }

/-- GP0 0xE5, drawing offset, and its event (64_gpu R502). -/
def State.gp0DrawOffset (s : State) (v : Word) : State :=
  let x : BitVec 11 := v.extractLsb' 0 11
  let y : BitVec 11 := v.extractLsb' 11 11
  (s.setGpu { s.gpu with offsetX := x, offsetY := y }).emit (.setDrawOffset x.toInt y.toInt)

/-- GP0 0xE6, mask bit setting (64_gpu R503). -/
def Gpu.maskBits (g : Gpu) (v : Word) : Gpu :=
  { g with forceSetMask := v.extractLsb' 0 1, preserveMasked := v.extractLsb' 1 1 }

/-! ## Image transfers -/

/-- The transfer that words 1 and 2 of GP0 0xA0 or 0xC0 describe: origin, size, `ceil(w * h / 2)` data words (64_gpu R505,
R510). -/
def transferOf (origin size : Word) : Transfer :=
  let w := (size.extractLsb' 0 16).toNat
  let h := (size.extractLsb' 16 16).toNat
  { x := (origin.extractLsb' 0 10).toNat, y := (origin.extractLsb' 16 9).toNat, col := 0, row := 0, w := w, h := h,
    words := (w * h + 1) / 2 }

/-- GP0 0xA0, CPU to VRAM (64_gpu R505). -/
def Gpu.startLoad (g : Gpu) : Gpu :=
  let t := transferOf (g.word 1) (g.word 2)
  { g with ld := t, gp0Mode := if 0 < t.words then .imageLoad else .command }

/-- GP0 0xC0, VRAM to CPU (64_gpu R510). -/
def Gpu.startRead (g : Gpu) : Gpu :=
  let t := transferOf (g.word 1) (g.word 2)
  { g with rd := t, gp0Mode := if 0 < t.words then .vramToCpu else .command }

/-- The pixel under the cursor, wrapped at the edges of VRAM (64_gpu R507, R512). -/
def Transfer.pixelX (t : Transfer) : Nat := (t.x + t.col) % 1024

/-- See `Transfer.pixelX`. -/
def Transfer.pixelY (t : Transfer) : Nat := (t.y + t.row) % 512

/-- Move the cursor one pixel in row-major order (64_gpu R507). -/
def Transfer.advance (t : Transfer) : Transfer :=
  if t.col + 1 = t.w then { t with col := 0, row := t.row + 1 } else { t with col := t.col + 1 }

/-- One pixel of an image load; nothing for the pad half of an odd count (64_gpu R507). -/
def State.loadPixel (s : State) (h : Half) : State :=
  let t := s.gpu.ld
  if t.row < t.h then
    (s.setPixel t.pixelX t.pixelY h).setGpu { s.gpu with ld := t.advance }
  else s

/-- One data word fewer is expected; with the last the mode returns to Command (64_gpu R507). -/
def Gpu.countLoadWord (g : Gpu) : Gpu :=
  { g with
    ld := { g.ld with words := g.ld.words - 1 },
    gp0Mode := if g.ld.words - 1 = 0 then .command else g.gp0Mode }

/-- `load_word(d)`: two pixels, low half first (64_gpu R507). -/
def State.loadWord (s : State) (d : Word) : State :=
  let s1 := (s.loadPixel (d.extractLsb' 0 16)).loadPixel (d.extractLsb' 16 16)
  s1.setGpu s1.gpu.countLoadWord

/-- `next_pixel()`: the pixel under the read cursor, or 0 for the pad half (64_gpu R512). -/
def State.nextPixel (s : State) : Half × State :=
  let t := s.gpu.rd
  if t.row < t.h then (s.pixel t.pixelX t.pixelY, s.setGpu { s.gpu with rd := t.advance }) else (0, s)

/-- One read word fewer is left; with the last the mode returns to Command (64_gpu R513). -/
def Gpu.countReadWord (g : Gpu) : Gpu :=
  { g with
    rd := { g.rd with words := g.rd.words - 1 },
    gp0Mode := if g.rd.words - 1 = 0 then .command else g.gp0Mode }

/-- GPUREAD: two pixels in VRAMToCPU mode; in the other modes any value (64_gpu R513, U13). -/
def State.gpuRead (s : State) : Word × State :=
  match s.gpu.gp0Mode with
  | .vramToCpu =>
    let (lo, s1) := s.nextPixel
    let (hi, s2) := s1.nextPixel
    (hi ++ lo, s2.setGpu s2.gpu.countReadWord)
  | .command => s.drawWord
  | .imageLoad => s.drawWord

/-! ## The GP0 assembler -/

/-- Words of a GP0 command, the first included; none outside the table (64_gpu R471). -/
def gp0Words (op : Byte) : Option Nat :=
  match op with
  | 0x00#8 => some 1
  | 0x01#8 => some 1
  | 0x02#8 => some 3
  | 0x28#8 => some 5
  | 0x2C#8 => some 9
  | 0x30#8 => some 6
  | 0x38#8 => some 8
  | 0xA0#8 => some 3
  | 0xC0#8 => some 3
  | 0xE1#8 => some 1
  | 0xE2#8 => some 1
  | 0xE3#8 => some 1
  | 0xE4#8 => some 1
  | 0xE5#8 => some 1
  | 0xE6#8 => some 1
  | _ => none

/-- The handler of the assembled command. NOP (R480), clear texture cache (R481) and fill (R482) have no effect. -/
def State.gp0Run (s : State) : State :=
  match s.gpu.cmdOpcode with
  | 0x28#8 => s.gp0MonoQuad
  | 0x2C#8 => s.gp0TexturedQuad
  | 0x30#8 => s.gp0ShadedTriangle
  | 0x38#8 => s.gp0ShadedQuad
  | 0xA0#8 => s.setGpu s.gpu.startLoad
  | 0xC0#8 => s.setGpu s.gpu.startRead
  | 0xE1#8 => s.setGpu (s.gpu.drawMode (s.gpu.word 0))
  | 0xE2#8 => s.setGpu (s.gpu.textureWindow (s.gpu.word 0))
  | 0xE3#8 => s.setGpu (s.gpu.drawAreaTopLeft (s.gpu.word 0))
  | 0xE4#8 => s.setGpu (s.gpu.drawAreaBottomRight (s.gpu.word 0))
  | 0xE5#8 => s.gp0DrawOffset (s.gpu.word 0)
  | 0xE6#8 => s.setGpu (s.gpu.maskBits (s.gpu.word 0))
  | _ => s

/-- Take one word of the open command; the last runs its handler (64_gpu R472). -/
def State.gp0Accept (s : State) (w : Word) : State :=
  let s1 := s.setGpu { s.gpu with cmdBuf := s.gpu.cmdBuf ++ [w], cmdRemaining := s.gpu.cmdRemaining - 1 }
  if s1.gpu.cmdRemaining = 0 then s1.gp0Run else s1

/-- Open a command of `n` words (64_gpu R472). -/
def Gpu.openCommand (g : Gpu) (op : Byte) (n : Nat) : Gpu :=
  { g with cmdOpcode := op, cmdRemaining := n, cmdBuf := [] }

/-- `gp0_write(w)` (64_gpu R472, R473). -/
def State.gp0Write (s : State) (w : Word) : Result :=
  match s.gpu.gp0Mode with
  | .command =>
    if s.gpu.cmdRemaining = 0 then
      match gp0Words (w.extractLsb' 24 8) with
      | none => .fault .gp0UnknownOpcode
      | some n => .next ((s.setGpu (s.gpu.openCommand (w.extractLsb' 24 8) n)).gp0Accept w)
    else .next (s.gp0Accept w)
  | .imageLoad => .next (s.loadWord w)
  | .vramToCpu => .fault .gp0WriteDuringRead

/-! ## GP1 -/

/-- GP1 0x01, reset command buffer (64_gpu R517). -/
def Gpu.resetBuffer (g : Gpu) : Gpu := { g with cmdBuf := [], cmdRemaining := 0, gp0Mode := .command }

/-- GP1 0x05, display VRAM origin (64_gpu R521). -/
def Gpu.displayOrigin (g : Gpu) (v : Word) : Gpu :=
  { g with dispX := v.extractLsb' 0 10 &&& 0x3FE#10, dispY := v.extractLsb' 10 9 }

/-- GP1 0x06, horizontal range (64_gpu R522). -/
def Gpu.horizontalRange (g : Gpu) (v : Word) : Gpu :=
  { g with dispHStart := v.extractLsb' 0 12, dispHEnd := v.extractLsb' 12 12 }

/-- GP1 0x07, vertical range (64_gpu R523). -/
def Gpu.verticalRange (g : Gpu) (v : Word) : Gpu :=
  { g with dispVStart := v.extractLsb' 0 10, dispVEnd := v.extractLsb' 10 10 }

/-- GP1 0x08, display mode (64_gpu R524). -/
def Gpu.displayMode (g : Gpu) (v : Word) : Gpu :=
  { g with
    hres1 := v.extractLsb' 0 2, vres := v.extractLsb' 2 1, vmode := v.extractLsb' 3 1, displayDepth := v.extractLsb' 4 1,
    interlaced := v.extractLsb' 5 1, hres2 := v.extractLsb' 6 1 }

/-- A GP1 command: acts at once in every GP0 mode (64_gpu R515 to R524); none for another opcode. -/
def Gpu.gp1 (g : Gpu) (v : Word) : Option Gpu :=
  match v.extractLsb' 24 8 with
  | 0x00#8 => some Gpu.reset
  | 0x01#8 => some g.resetBuffer
  | 0x02#8 => some { g with gpuIrq := 0 }
  | 0x03#8 => some { g with displayDisabled := v.extractLsb' 0 1 }
  | 0x04#8 => some { g with dmaDirection := v.extractLsb' 0 2 }
  | 0x05#8 => some (g.displayOrigin v)
  | 0x06#8 => some (g.horizontalRange v)
  | 0x07#8 => some (g.verticalRange v)
  | 0x08#8 => some (g.displayMode v)
  | _ => none

/-- A GP1 write (64_gpu R515). -/
def State.gp1Write (s : State) (v : Word) : Result :=
  match s.gpu.gp1 v with
  | some g => .next (s.setGpu g)
  | none => .fault .gp1UnknownOpcode

/-! ## GPUSTAT -/

/-- Ready for a command: bit 26 (64_gpu R525). -/
def Gpu.ready (g : Gpu) : Bool := g.gp0Mode == .command && g.cmdRemaining == 0

/-- GPUSTAT, bit 31 first (64_gpu R525). -/
def Gpu.stat (g : Gpu) : Word :=
  0#1 ++ g.dmaDirection ++ 1#1 ++ BitVec.ofBool (g.gp0Mode == .vramToCpu) ++ BitVec.ofBool g.ready ++ 0#1 ++ g.gpuIrq ++
    g.displayDisabled ++ g.interlaced ++ g.displayDepth ++ g.vmode ++ g.vres ++ g.hres2 ++ g.hres1 ++ g.textureDisable ++
    0#1 ++ g.field ++ g.preserveMasked ++ g.forceSetMask ++ g.drawToDisplay ++ g.dithering ++ g.textureDepth ++
    g.semiTransparency ++ g.pageBaseY ++ g.pageBaseX

end Machine
end Sys2Proof
end

