-- ==== Sys2Proof/Machine/Dma.lean ====
section
/-! DEFINITION. The DMA controller: registers, the three transfer algorithms, completion and its interrupt (61_dma). -/

namespace Sys2Proof
namespace Machine

/-! ## Registers -/

/-- The registers of channel `n`. -/
def State.dmaChannel (s : State) (n : Fin 7) : DmaChannel := s.dma.channels[n]

/-- Replace the registers of channel `n`. -/
def State.setDmaChannel (s : State) (n : Fin 7) (c : DmaChannel) : State :=
  { s with dma := { s.dma with channels := s.dma.channels.set n c } }

/-- `dir`, CHCR bit 0: true is RAM to peripheral (61_dma R343). -/
def chcrFromRam (chcr : Word) : Bool := testBit chcr 0

/-- `step`, CHCR bit 1: true is -4 (61_dma R343). -/
def chcrDecrement (chcr : Word) : Bool := testBit chcr 1

/-- `sync`, CHCR bits 10:9 (61_dma R343). -/
def chcrSync (chcr : Word) : BitVec 2 := chcr.extractLsb' 9 2

/-- `active(n)`: enabled, and not manual or triggered (61_dma R344). -/
def chcrActive (chcr : Word) : Bool := testBit chcr 24 && (chcrSync chcr != 0 || testBit chcr 28)

/-- The low two bits of an address cleared, 24 bits kept (61_dma R351, R352). -/
def dmaAddress (a : Word) : Word := a &&& 0x00FFFFFC

/-- The address after one word: 4 up or down, wrapped inside 16 MiB (61_dma R352). -/
def dmaStep (decrement : Bool) (a : Word) : Word := dmaAddress (if decrement then a - 4 else a + 4)

/-! ## The interrupt register -/

/-- The master flag that the other bits of DICR give (61_dma R348). -/
def dicrMaster (d : Word) : Bool :=
  testBit d 15 || (testBit d 23 && (d.extractLsb' 16 7 &&& d.extractLsb' 24 7) != 0#7)

/-- `update_master()` after DICR became `d`, its bit 31 still the old one: line 3 on a rise (61_dma R348). -/
def State.dmaUpdateMaster (s : State) (d : Word) : State :=
  let s' := { s with dma := { s.dma with dicr := setBit d 31 (dicrMaster d) } }
  if !testBit d 31 && dicrMaster d then s'.requestIrq 3 else s'

/-- DICR after a write of `v`, before the master flag: fields 5:0, 15, 23:16 taken, flags 30:24 cleared by ones (61_dma R347). -/
def dicrWritten (d v : Word) : Word :=
  let d1 := setField (setField (setField d 0 (v.extractLsb' 0 6)) 15 (v.extractLsb' 15 1)) 16 (v.extractLsb' 16 8)
  setField d1 24 (d.extractLsb' 24 7 &&& ~~~(v.extractLsb' 24 7))

/-- A write of DICR (61_dma R347). -/
def State.writeDicr (s : State) (v : Word) : State := s.dmaUpdateMaster (dicrWritten s.dma.dicr v)

/-! ## The device ends (61_dma R357) -/

/-- A 32-bit read of RAM at a DMA address; 0 outside RAM (61_dma R352). -/
def State.dmaRamRead (s : State) (a : Word) : Word := s.ramRead a.toNat 4

/-- The OTC entry written at `a`: the previous address, or the end marker last (61_dma R357). -/
def otcEntry (a : Word) (last : Bool) : Word := if last then 0x00FFFFFF else dmaAddress (a - 4)

/-- `port_read(n, i, N, addr)`: the word of one iteration to RAM, and the device's side effects. The channels with no device
end never get here (`dmaRefusal`). -/
def State.dmaPortRead (s : State) (n : Fin 7) (a : Word) (last : Bool) : Word × State :=
  match n with
  | 2 => s.gpuRead
  | 3 => s.cdPopWord
  | _ => (otcEntry a last, s)

/-! ## The three transfers -/

/-- `move(n, N)` to RAM: `left` words still to move, the next at `a` (61_dma R353). -/
def dmaMoveToRam (n : Fin 7) (decrement : Bool) : (left : Nat) → (a : Word) → State → State
  | 0, _, s => s
  | left + 1, a, s =>
    let (w, s1) := s.dmaPortRead n a (left == 0)
    dmaMoveToRam n decrement left (dmaStep decrement a) (s1.ramWrite a.toNat 4 w)

/-- `move(n, N)` from RAM to GP0, channel 2's only device end in this direction (61_dma R353, R357). -/
def dmaMoveToGp0 (decrement : Bool) : (left : Nat) → (a : Word) → State → Result
  | 0, _, s => .next s
  | left + 1, a, s =>
    andThen (s.gp0Write (s.dmaRamRead a)) (dmaMoveToGp0 decrement left (dmaStep decrement a))

/-- `move(n, N)` (61_dma R353). -/
def State.dmaMove (s : State) (n : Fin 7) (count : Nat) : Result :=
  let c := s.dmaChannel n
  let a := dmaAddress (c.madr.setWidth 32)
  if chcrFromRam c.chcr then dmaMoveToGp0 (chcrDecrement c.chcr) count a s
  else .next (dmaMoveToRam n (chcrDecrement c.chcr) count a s)

/-- The payload of a packet: `left` words after address `a`, ascending, to GP0 (61_dma R355). -/
def dmaPayload : (left : Nat) → (a : Word) → State → Result
  | 0, _, s => .next s
  | left + 1, a, s => andThen (s.gp0Write (s.dmaRamRead (dmaStep false a))) (dmaPayload left (dmaStep false a))

/-- More packets than there are 4-aligned addresses in 24 bits: a list that goes on so long visits a header twice, and since GP0
words change no RAM it never ends (61_dma R359; log 14). -/
def packetLimit : Nat := 4194304

/-- `linked_list(2)`: send packets until a header has bit 23 set (61_dma R355). -/
def dmaLinkedList : (limit : Nat) → (a : Word) → State → Result
  | 0, _, _ => .fault .linkedListNeverEnds
  | limit + 1, a, s =>
    let header := s.dmaRamRead a
    andThen (dmaPayload (header.extractLsb' 24 8).toNat a s) fun s1 =>
      if testBit header 23 then .next s1 else dmaLinkedList limit (dmaAddress header) s1

/-! ## Starting and completing -/

/-- The channel and direction have a device end (61_dma R357, R358). -/
def dmaHasDeviceEnd (n : Fin 7) (fromRam : Bool) : Bool :=
  match n with
  | 2 => true
  | 3 => !fromRam
  | 6 => !fromRam
  | _ => false

/-- The refusal an activation meets, if any: no device end (U6), or a sync mode with no meaning there (U4). -/
def dmaRefusal (n : Fin 7) (chcr : Word) : Option Refusal :=
  if !dmaHasDeviceEnd n (chcrFromRam chcr) then some (.dmaDeviceEnd n)
  else if chcrSync chcr = 3#2 then some (.dmaSyncMode n)
  else if chcrSync chcr = 2#2 && !(n = 2 && chcrFromRam chcr) then some (.dmaSyncMode n)
  else none

/-- Words of a manual transfer: the block size, 0 meaning 0x10000 (61_dma R353). -/
def manualCount (bcr : Word) : Nat :=
  if bcr.extractLsb' 0 16 = 0#16 then 0x10000 else (bcr.extractLsb' 0 16).toNat

/-- Words of a request transfer: block size times block count (61_dma R354). -/
def requestCount (bcr : Word) : Nat := (bcr.extractLsb' 0 16).toNat * (bcr.extractLsb' 16 16).toNat

/-- `run_transfer(n)` of an activated channel (61_dma R351). -/
def State.dmaRun (s : State) (n : Fin 7) : Result :=
  let c := s.dmaChannel n
  match dmaRefusal n c.chcr with
  | some r => .refused r
  | none =>
    match chcrSync c.chcr with
    | 0#2 => s.dmaMove n (manualCount c.bcr)
    | 1#2 => s.dmaMove n (requestCount c.bcr)
    | _ => dmaLinkedList packetLimit (dmaAddress (c.madr.setWidth 32)) s

/-- CHCR with enable and trigger cleared (61_dma R360). -/
def chcrDone (chcr : Word) : Word := setBit (setBit chcr 24 false) 28 false

/-- `complete(n)`: enable and trigger clear, the flag set when the channel's interrupt is enabled, the master flag follows
(61_dma R360). -/
def State.dmaComplete (s : State) (n : Fin 7) : State :=
  let c := s.dmaChannel n
  let s1 := s.setDmaChannel n { c with chcr := chcrDone c.chcr }
  let d := s1.dma.dicr
  s1.dmaUpdateMaster (if testBit d (16 + n) then setBit d (24 + n) true else d)

/-- A write of CHCR: store it, and if the channel is now active run the whole transfer (61_dma R350). -/
def State.writeChcr (s : State) (n : Fin 7) (v : Word) : Result :=
  let s1 := s.setDmaChannel n { s.dmaChannel n with chcr := v }
  if chcrActive v then andThen (s1.dmaRun n) (fun s2 => .next (s2.dmaComplete n)) else .next s1

/-! ## Register access (61_dma R341) -/

/-- The channel an offset below 0x70 belongs to. -/
def dmaChannelIndex (off : Nat) : Option (Fin 7) := if h : off / 16 < 7 then some (Fin.mk (off / 16) h) else none

/-- A 32-bit read at an offset of the DMA block (61_dma R341). -/
def State.dmaRead (s : State) (off : Nat) : Word :=
  match dmaChannelIndex off with
  | some n =>
    match off % 16 with
    | 0x0 => (s.dmaChannel n).madr.setWidth 32
    | 0x4 => (s.dmaChannel n).bcr
    | 0x8 => (s.dmaChannel n).chcr
    | _ => 0
  | none =>
    match off with
    | 0x70 => s.dma.dpcr
    | 0x74 => s.dma.dicr
    | _ => 0

/-- A 32-bit write at an offset of the DMA block (61_dma R341). -/
def State.dmaWrite (s : State) (off : Nat) (v : Word) : Result :=
  match dmaChannelIndex off with
  | some n =>
    match off % 16 with
    | 0x0 => .next (s.setDmaChannel n { s.dmaChannel n with madr := v.extractLsb' 0 24 })
    | 0x4 => .next (s.setDmaChannel n { s.dmaChannel n with bcr := v })
    | 0x8 => s.writeChcr n v
    | _ => .next s
  | none =>
    match off with
    | 0x70 => .next { s with dma := { s.dma with dpcr := v } }
    | 0x74 => .next (s.writeDicr v)
    | _ => .next s

end Machine
end Sys2Proof
end

