-- ==== Sys2Proof/Machine/Timers.lean ====
section
/-! DEFINITION. The three interval timers: registers, clock sources, ticks and interrupts (62_timers). -/

namespace Sys2Proof
namespace Machine

/-! ## Registers -/

/-- `reset_on_target`, mode bit 3 (62_timers R382). -/
def Timer.resetOnTarget (t : Timer) : Bool := testBit t.mode 3

/-- `irq_on_target`, mode bit 4. -/
def Timer.irqOnTarget (t : Timer) : Bool := testBit t.mode 4

/-- `irq_on_overflow`, mode bit 5. -/
def Timer.irqOnOverflow (t : Timer) : Bool := testBit t.mode 5

/-- `irq_repeat`, mode bit 6. -/
def Timer.irqRepeat (t : Timer) : Bool := testBit t.mode 6

/-- What a read of the mode register returns: the stored bits 9:0 and the live status bits 12:10 (62_timers R383). -/
def Timer.modeWord (t : Timer) : Half :=
  0#3 ++ BitVec.ofBool t.overflowFlag ++ BitVec.ofBool t.targetFlag ++ BitVec.ofBool (!t.requestLatch) ++ t.mode

/-- A write of the mode register replaces bits 9:0 and clears both sticky flags and the request latch (62_timers R384). -/
def Timer.writeMode (t : Timer) (v : Word) : Timer :=
  { t with mode := v.extractLsb' 0 10, targetFlag := false, overflowFlag := false, requestLatch := false }

/-- A write of the counter register (62_timers R385). -/
def Timer.writeCounter (t : Timer) (v : Word) : Timer := { t with counter := v.extractLsb' 0 16 }

/-- A write of the target register (62_timers R386). -/
def Timer.writeTarget (t : Timer) (v : Word) : Timer := { t with target := v.extractLsb' 0 16 }

/-- Replace timer `i`. -/
def State.setTimer (s : State) (i : Fin 3) (t : Timer) : State := { s with timers := s.timers.set i t }

/-- Timer `i`. -/
def State.timer (s : State) (i : Fin 3) : Timer := s.timers[i]

/-- The timer that offset `off` of the block selects, bits 5:4 (62_timers R381; 20_memory R89). -/
def timerIndex (off : Nat) : Option (Fin 3) :=
  match off / 16 with
  | 0 => some 0
  | 1 => some 1
  | 2 => some 2
  | _ => none

/-- Read at offset `off` of the timer block: the register at `r`, 0 at its upper half and at `0xC` (62_timers R381). -/
def State.timerRead (s : State) (off : Nat) : Word :=
  match timerIndex off with
  | none => 0
  | some i =>
    match off % 16 with
    | 0x0 => (s.timer i).counter.setWidth 32
    | 0x4 => (s.timer i).modeWord.setWidth 32
    | 0x8 => (s.timer i).target.setWidth 32
    | _ => 0

/-- Write at offset `off` of the timer block; the upper half and `0xC` ignore it (62_timers R381). -/
def State.timerWrite (s : State) (off : Nat) (v : Word) : State :=
  match timerIndex off with
  | none => s
  | some i =>
    match off % 16 with
    | 0x0 => s.setTimer i ((s.timer i).writeCounter v)
    | 0x4 => s.setTimer i ((s.timer i).writeMode v)
    | 0x8 => s.setTimer i ((s.timer i).writeTarget v)
    | _ => s

/-! ## Counting -/

/-- The clock sources of 62_timers R387. -/
inductive ClockSource where
  | system
  | systemDiv8
  | dot
  | hblank
  deriving DecidableEq, Repr

/-- The clock-source table of 62_timers R387. -/
def clockSource (i : Fin 3) (select : BitVec 2) : ClockSource :=
  match select, i with
  | 0#2, _ => .system
  | 1#2, 2 => .systemDiv8
  | 1#2, _ => .dot
  | 2#2, _ => .systemDiv8
  | _, 0 => .dot
  | _, 1 => .hblank
  | _, 2 => .systemDiv8

/-- Denominator of every retained fraction: CPU_HZ times the denominator of HBLANK_HZ (log 13). -/
def Params.fracDen (p : Params) : Nat := Config.cpuHz * p.hblankDen

/-- `source_hz / cpu_hz` as a numerator over `fracDen` (62_timers R387). -/
def Params.ratio (p : Params) : ClockSource → Nat
  | .system => fracDen p
  | .systemDiv8 => fracDen p / 8
  | .dot => Config.dotHz * p.hblankDen
  | .hblank => p.hblankNum

/-- The two kinds of timer event (62_timers R389). -/
inductive TimerEvent where
  | target
  | overflow
  deriving DecidableEq, Repr

/-- The event has its interrupt-enable bit set (62_timers R393). -/
def Timer.armed (t : Timer) : TimerEvent → Bool
  | .target => t.irqOnTarget
  | .overflow => t.irqOnOverflow

/-- `event(i, kind)`: request line 4 + i when armed, every time in repeat mode, else only while the latch is clear
(62_timers R393). -/
def State.timerEvent (s : State) (i : Fin 3) (kind : TimerEvent) : State :=
  let t := s.timer i
  if t.armed kind && (t.irqRepeat || !t.requestLatch) then
    (s.setTimer i { t with requestLatch := true }).requestIrq (4 + i)
  else s

/-- The counting half of a tick: wrap from 0xFFFF with the overflow flag and event, else add 1 (62_timers R389). -/
def State.timerCount (s : State) (i : Fin 3) : State :=
  let t := s.timer i
  if t.counter = 0xFFFF#16 then
    (s.setTimer i { t with counter := 0, overflowFlag := true }).timerEvent i .overflow
  else s.setTimer i { t with counter := t.counter + 1 }

/-- The target half of a tick: flag, event, and the counter zeroed when `reset_on_target` (62_timers R389). -/
def State.timerMeetTarget (s : State) (i : Fin 3) : State :=
  let t := s.timer i
  if t.counter = t.target then
    let s' := (s.setTimer i { t with targetFlag := true }).timerEvent i .target
    if t.resetOnTarget then s'.setTimer i { s'.timer i with counter := 0 } else s'
  else s

/-- One tick of timer `i` (62_timers R389). -/
def State.timerTick (s : State) (i : Fin 3) : State := (s.timerCount i).timerMeetTarget i

/-- `n` ticks of timer `i`. -/
def State.timerTicks : Nat → Fin 3 → State → State
  | 0, _, s => s
  | n + 1, i, s => State.timerTicks n i (s.timerTick i)

/-- Rate conversion for timer `i`: whole ticks out, the exact fraction retained (62_timers R388). -/
def State.advanceTimer (s : State) (i : Fin 3) (cycles : Nat) : State :=
  let t := s.timer i
  let total := t.frac + cycles * Params.ratio s.params (clockSource i (t.mode.extractLsb' 8 2))
  let den := Params.fracDen s.params
  State.timerTicks (total / den) i (s.setTimer i { t with frac := total % den })

/-- `advance_timers(cycles)`: each timer independently (62_timers R388). -/
def State.advanceTimers (s : State) (cycles : Nat) : State :=
  ((s.advanceTimer 0 cycles).advanceTimer 1 cycles).advanceTimer 2 cycles

end Machine
end Sys2Proof
end

