-- ==== Sys2Proof/Machine/Interconnect.lean ====
section
/-! DEFINITION. The interconnect: translation, the device map, reads and writes at every width (20_memory). -/

namespace Sys2Proof
namespace Machine

/-- The three access widths. -/
inductive Width where
  | byte
  | half
  | word
  deriving DecidableEq, Repr

/-- Bytes of an access. -/
def Width.bytes : Width → Nat
  | .byte => 1
  | .half => 2
  | .word => 4

/-- A value cut to the access width: an unsigned `8n`-bit number. -/
def Width.cut : Width → Word → Word
  | .byte, v => (v.extractLsb' 0 8).setWidth 32
  | .half, v => (v.extractLsb' 0 16).setWidth 32
  | .word, v => v

/-- Translation by region (20_memory R72). -/
def translate (vaddr : Word) : Word :=
  match vaddr.extractLsb' 29 3 with
  | 0b100#3 => vaddr &&& 0x7FFFFFFF
  | 0b101#3 => vaddr &&& 0x1FFFFFFF
  | _ => vaddr

/-- The devices of the map. `open` ranges hold no state and read as any value: memory control, RAM_SIZE, expansion 2, cache
control (20_memory R85, R86, R93, R94). -/
inductive Device where
  | ram
  | expansion1
  | openRange
  | iStat
  | iMask
  | dma
  | timers
  | cdrom
  | gp0
  | gp1
  | spu
  | bios
  deriving DecidableEq, Repr

/-- One row of the device map: both ends inclusive. -/
structure MapRow where
  first : Nat
  last : Nat
  device : Device
  deriving DecidableEq, Repr

/-- The device map (20_memory R82). -/
def deviceMap : List MapRow :=
  [ { first := 0x00000000, last := 0x001FFFFF, device := .ram },
    { first := 0x1F000000, last := 0x1F7FFFFF, device := .expansion1 },
    { first := 0x1F801000, last := 0x1F801023, device := .openRange },
    { first := 0x1F801060, last := 0x1F801063, device := .openRange },
    { first := 0x1F801070, last := 0x1F801073, device := .iStat },
    { first := 0x1F801074, last := 0x1F801077, device := .iMask },
    { first := 0x1F801080, last := 0x1F8010FF, device := .dma },
    { first := 0x1F801100, last := 0x1F80112F, device := .timers },
    { first := 0x1F801800, last := 0x1F801803, device := .cdrom },
    { first := 0x1F801810, last := 0x1F801813, device := .gp0 },
    { first := 0x1F801814, last := 0x1F801817, device := .gp1 },
    { first := 0x1F801C00, last := 0x1F801E7F, device := .spu },
    { first := 0x1F802000, last := 0x1F802041, device := .openRange },
    { first := 0x1FC00000, last := 0x1FC7FFFF, device := .bios },
    { first := 0xFFFE0130, last := 0xFFFE0133, device := .openRange } ]

/-- The device whose range contains a physical address, and the offset in it; none is an address-map miss (20_memory R80,
R95). -/
def deviceAt (p : Word) : Option (Device × Nat) :=
  match deviceMap.find? (fun r => r.first ≤ p.toNat && p.toNat ≤ r.last) with
  | some r => some (r.device, p.toNat - r.first)
  | none => none

/-- An interrupt-controller register read at offset 0 or 2, 16 or 32 bits (60_exceptions R311). -/
def irqRegisterRead (r : BitVec 11) (off : Nat) (n : Width) : Word :=
  match n with
  | .byte => 0
  | .half => if off = 0 then r.setWidth 32 else 0
  | .word => r.setWidth 32

/-- A write reaches an interrupt-controller register: 16 or 32 bits at its own address (60_exceptions R313). -/
def irqRegisterWritten (off : Nat) (n : Width) : Bool :=
  match n with
  | .byte => false
  | .half => off == 0
  | .word => true

/-- The read of width `n` at offset `off` of a device (20_memory R83 to R97). -/
def State.deviceRead (s : State) (d : Device) (off : Nat) (n : Width) : Word × State :=
  match d with
  | .ram => (s.ramRead off n.bytes, s)
  | .bios => (s.biosRead off n.bytes, s)
  | .expansion1 => (n.cut 0xFFFFFFFF, s)
  | .openRange => (n.cut s.drawWord.1, s.drawWord.2)
  | .iStat => (irqRegisterRead s.iStat off n, s)
  | .iMask => (irqRegisterRead s.iMask off n, s)
  | .dma => (if n = .word then s.dmaRead off else 0, s)
  | .timers => (if n = .byte then 0 else s.timerRead off, s)
  | .cdrom => if n = .byte then ((s.cdRead off).1.setWidth 32, (s.cdRead off).2) else (0, s)
  | .gp0 => if n = .word then s.gpuRead else (0, s)
  | .gp1 => (if n = .word then s.gpu.stat else 0, s)
  | .spu => (0, s)

/-- The write of width `n` at offset `off` of a device (20_memory R83 to R97). -/
def State.deviceWrite (s : State) (d : Device) (off : Nat) (n : Width) (v : Word) : Result :=
  match d with
  | .ram => .next (s.ramWrite off n.bytes v)
  | .bios => .next s
  | .expansion1 => .next s
  | .openRange => .next s
  | .iStat => .next (if irqRegisterWritten off n then s.writeIStat v else s)
  | .iMask => .next (if irqRegisterWritten off n then s.writeIMask v else s)
  | .dma => if n = .word then s.dmaWrite off v else .next s
  | .timers => .next (if n = .byte then s else s.timerWrite off v)
  | .cdrom => .next (if n = .byte then s.cdWrite off (v.extractLsb' 0 8) else s)
  | .gp0 => if n = .word then s.gp0Write v else .next s
  | .gp1 => if n = .word then s.gp1Write v else .next s
  | .spu => .next s

/-- `MemRead(vaddr, n)` (20_memory R80): every read returns a value; a miss reads 0 (R95). -/
def State.memRead (s : State) (vaddr : Word) (n : Width) : Word × State :=
  match deviceAt (translate vaddr) with
  | some (d, off) => s.deviceRead d off n
  | none => (0, s)

/-- SR bit 16: the cache is isolated (20_memory R113). -/
def State.cacheIsolated (s : State) : Bool := testBit s.sr 16

/-- `MemWrite(vaddr, n, v)` (20_memory R81): dropped while the cache is isolated (R113) and on a miss (R95). -/
def State.memWrite (s : State) (vaddr : Word) (n : Width) (v : Word) : Result :=
  if s.cacheIsolated then .next s
  else
    match deviceAt (translate vaddr) with
    | some (d, off) => s.deviceWrite d off n v
    | none => .next s

end Machine
end Sys2Proof
end

