-- ==== Sys2Proof/Machine/Ops.lean ====
section
/-! DEFINITION. The shared operations of the CPU: register reads and writes, the landing of a load, the load delay, COP0, taking
an exception and returning from one (40_cpu_step, 47_system_cop0, 60_exceptions).

`exec` runs an instruction on the state after the fetch and the advance and before the drain: the registers of that state are the
operand view V, and each meaning lands the pending load itself with `State.land` (log 20). -/

namespace Sys2Proof
namespace Machine

/-! ## General registers -/

/-- `x[r]`: the operand view (40_cpu_step R165). Register 0 reads 0 (10_state R21). -/
def State.x (s : State) (r : Reg) : Word :=
  if r = 0 then 0 else s.regs[r.toNat]'(by have := r.isLt; omega)

/-- `R[r] <- v`: the result view. A write to register 0 is suppressed (10_state R21; 00_scope R11). -/
def State.setReg (s : State) (r : Reg) (v : Word) : State :=
  if r = 0 then s else { s with regs := s.regs.set r.toNat v (by have := r.isLt; omega) }

/-- The forcing of line (6): register 0 becomes 0 (40_cpu_step R168). -/
def State.forceZero (s : State) : State := { s with regs := s.regs.set 0 0 }

/-! ## The load delay -/

/-- The drain: the pending load lands in the result view and the slot is cleared (40_cpu_step R164). -/
def State.land (s : State) : State :=
  { s.setReg s.pending.index s.pending.value with pending := { index := 0, value := 0 } }

/-- The drain, then the instruction's own write, which is the later one (40_cpu_step R166). -/
def State.writeResult (s : State) (d : Reg) (v : Word) : State := s.land.setReg d v

/-- `LOAD_DISCARD` undoes the landing: the delayed load names the register drained in this step (40_cpu_step R167). -/
def State.discards (s : State) (j : Reg) : Bool := s.params.loadDiscard && j == s.pending.index && j != 0

/-- The drain, then `DelayedLoad(j, w)` (40_cpu_step R167). -/
def State.delayedLoad (s : State) (j : Reg) (w : Word) : State :=
  { (if s.discards j then s.land.setReg j (s.x j) else s.land) with pending := { index := j, value := w } }

/-! ## HI, LO and the program counter -/

/-- The drain, then both halves of a multiply or divide (45_muldiv R234). -/
def State.writeHiLo (s : State) (hi lo : Word) : State := { s.land with hi := hi, lo := lo }

/-- The drain, then `next_pc <- t` (46_jump_branch). -/
def State.jumpTo (s : State) (t : Word) : State := { s.land with nextPc := t }

/-- The drain, then `next_pc <- t` when the condition holds (46_jump_branch R255). -/
def State.branchIf (s : State) (taken : Bool) (t : Word) : State := if taken then s.jumpTo t else s.land

/-! ## COP0 -/

/-- The register that a COP0 number names, read whole; another number delivers any value (47_system_cop0 R272, U7). -/
def State.cop0Read (s : State) (n : Nat) : Word × State :=
  match n with
  | 8 => (s.badVaddr, s)
  | 12 => (s.sr, s)
  | 13 => (s.cause, s)
  | 14 => (s.epc, s)
  | _ => s.drawWord

/-- A write of COP0 register `n`: SR whole, CAUSE bits 9:8, nothing else (47_system_cop0 R273). -/
def State.cop0Write (s : State) (n : Nat) (v : Word) : State :=
  match n with
  | 12 => { s with sr := v }
  | 13 => { s with cause := setField s.cause 8 (v.extractLsb' 8 2) }
  | _ => s

/-! ## Taking an exception -/

/-- The exception codes of 60_exceptions R290. -/
def Exception.code : Exception → BitVec 5
  | .interrupt => 0
  | .addressErrorLoad => 4
  | .addressErrorStore => 5
  | .syscall => 8
  | .breakpoint => 9
  | .reservedInstruction => 10
  | .coprocessorUnusable => 11
  | .overflow => 12

/-- The delay-slot predicate (60_exceptions R301). -/
def inDelaySlot (victim follower : Word) : Bool := follower != victim + 4

/-- The exception vector that SR bit 22 selects (60_exceptions R302). -/
def State.vector (s : State) : Word := if testBit s.sr 22 then Config.vectorBios else Config.vectorRam

/-- SR after entry: the stack of bits 5:0 moved left by one pair, the low pair cleared (60_exceptions R300, R303). -/
def pushStatus (sr : Word) : Word := setField sr 0 (sr.extractLsb' 0 4 ++ 0#2)

/-- CAUSE after entry: the code in bits 6:2, BD in bit 31, the coprocessor number in bits 29:28 (60_exceptions R300). -/
def recordCause (cause : Word) (code : BitVec 5) (bd : Bool) (ce : BitVec 2) : Word :=
  setField (setBit (setField cause 2 code) 31 bd) 28 ce

/-- `enter_exception(code, victim, follower, ce)` (60_exceptions R300). -/
def State.enterException (s : State) (e : Exception) (victim follower : Word) (ce : BitVec 2) : State :=
  let bd := inDelaySlot victim follower
  { s with
    sr := pushStatus s.sr
    cause := recordCause s.cause e.code bd ce
    epc := if bd then victim - 4 else victim
    pc := s.vector
    nextPc := s.vector + 4 }

/-- An exception raised during execute: victim `current_pc`, follower `pc`; the pending load has landed (40_cpu_step R160,
R169, R170). -/
def State.raise (s : State) (e : Exception) : State := s.land.enterException e s.currentPc s.pc 0

/-- An address error of a load or store: BadVAddr first, then entry (42_load_store R191, R200; 10_state R44). -/
def State.raiseAddress (s : State) (e : Exception) (addr : Word) : State :=
  { s.land with badVaddr := addr }.enterException e s.currentPc s.pc 0

/-- Coprocessor unusable, code 11, with the coprocessor number in CAUSE (60_exceptions R297). -/
def State.raiseUnusable (s : State) (ce : BitVec 2) : State :=
  s.land.enterException .coprocessorUnusable s.currentPc s.pc ce

/-! ## Returning from an exception -/

/-- SR after RFE: bits 5:2 move to 3:0, every other bit stays (47_system_cop0 R274). -/
def popStatus (sr : Word) : Word := setField sr 0 (sr.extractLsb' 2 4)

/-- The drain, then the return from an exception: only the SR stack moves (47_system_cop0 R274, 60_exceptions R305). -/
def State.returnFromException (s : State) : State := { s.land with sr := popStatus s.sr }

/-! ## Loads and stores -/

/-- A load that passed its alignment check: read through the interconnect, extend, delay (42_load_store R191). -/
def State.loadFrom (s : State) (rt : Reg) (addr : Word) (n : Width) (extend : Word → Word) : State :=
  (s.memRead addr n).2.delayedLoad rt (extend (s.memRead addr n).1)

/-- A store that passed its alignment check: the pending load lands, then the write goes through the interconnect
(42_load_store R200). -/
def State.storeTo (s : State) (addr : Word) (n : Width) (v : Word) : Result := s.land.memWrite addr n v

end Machine
end Sys2Proof
end

