-- ==== Sys2Proof/Machine/Operands.lean ====
section
/-! DEFINITION. The operand forms of 30_encoding R133: immediates, the effective address, branch and jump targets, shift
amounts, and the alignment tests of 20_memory R77. -/

namespace Sys2Proof
namespace Machine

/-- `sext_16`: bit 15 copied into bits 31:16 (00_scope R11). -/
def signExt16 (imm : Half) : Word := imm.signExtend 32

/-- `zext_16` (00_scope R11). -/
def zeroExt16 (imm : Half) : Word := imm.setWidth 32

/-- The upper immediate: `imm16 << 16` (30_encoding R133). -/
def upperImm (imm : Half) : Word := imm ++ 0#16

/-- The one addressing mode: base register plus sign-extended offset, modulo 2^32 (42_load_store R190). -/
def State.effectiveAddress (s : State) (base : Reg) (offset : Half) : Word := s.x base + signExt16 offset

/-- The branch target: the delay slot's address plus the offset in words (46_jump_branch R255). -/
def State.branchTarget (s : State) (offset : Half) : Word := s.pc + (signExt16 offset <<< 2)

/-- The jump target: the top four bits of the delay slot's address, then `target26` in words (46_jump_branch R250). -/
def State.jumpTarget (s : State) (target : BitVec 26) : Word := (s.pc &&& 0xF0000000) ||| (target.setWidth 32 <<< 2)

/-- The variable shift amount: the low 5 bits of the register (43_shift R213). -/
def State.shiftAmount (s : State) (rs : Reg) : Nat := ((s.x rs).extractLsb' 0 5).toNat

/-- A 32-bit access needs `addr[1:0] = 0` (20_memory R77). -/
def wordAligned (addr : Word) : Bool := addr.extractLsb' 0 2 == 0#2

/-- A 16-bit access needs `addr[0] = 0` (20_memory R77). -/
def halfAligned (addr : Word) : Bool := addr.extractLsb' 0 1 == 0#1

/-- A loaded word, taken whole. -/
def asWord (v : Word) : Word := v

/-- A loaded halfword, sign-extended (42_load_store R193). -/
def asSignedHalf (v : Word) : Word := (v.extractLsb' 0 16).signExtend 32

/-- A loaded halfword, zero-extended (42_load_store R194). -/
def asUnsignedHalf (v : Word) : Word := (v.extractLsb' 0 16).setWidth 32

/-- A loaded byte, sign-extended (42_load_store R195). -/
def asSignedByte (v : Word) : Word := (v.extractLsb' 0 8).signExtend 32

/-- A loaded byte, zero-extended (42_load_store R196). -/
def asUnsignedByte (v : Word) : Word := (v.extractLsb' 0 8).setWidth 32

end Machine
end Sys2Proof
end

