-- ==== Sys2Proof/Machine/Flags.lean ====
section
/-! DEFINITION. Conditions. The CPU has no status flags and no condition codes (10_state R31): what other machines keep in
flags is decided here inside one instruction, the overflow tests, the comparisons and the branch conditions. -/

namespace Sys2Proof
namespace Machine

/-- Signed overflow of a sum: equal signs going in, another coming out (41_alu_immediate R183, 44_alu_register R220). -/
def addOverflows (a b : Word) : Bool := testBit a 31 == testBit b 31 && testBit (a + b) 31 != testBit a 31

/-- Signed overflow of a difference (44_alu_register R222). -/
def subOverflows (a b : Word) : Bool := testBit a 31 != testBit b 31 && testBit (a - b) 31 != testBit a 31

/-- `signed(a) < signed(b)` (41_alu_immediate R185, 44_alu_register R228). -/
def lessSigned (a b : Word) : Bool := decide (a.toInt < b.toInt)

/-- `a < b` as unsigned numbers (41_alu_immediate R186, 44_alu_register R229). -/
def lessUnsigned (a b : Word) : Bool := decide (a.toNat < b.toNat)

/-- 1 when the condition holds, else 0. -/
def boolWord (c : Bool) : Word := if c then 1 else 0

/-- `signed(v) < 0` (46_jump_branch R260). -/
def isNegative (v : Word) : Bool := decide (v.toInt < 0)

/-- `signed(v) <= 0` (46_jump_branch R258). -/
def isNonPositive (v : Word) : Bool := decide (v.toInt ≤ 0)

/-- `signed(v) > 0` (46_jump_branch R259). -/
def isPositive (v : Word) : Bool := decide (0 < v.toInt)

/-- `signed(v) >= 0` (46_jump_branch R261). -/
def isNonNegative (v : Word) : Bool := decide (0 ≤ v.toInt)

end Machine
end Sys2Proof
end

