-- ==== Sys2Proof/Machine/AluImm.lean ====
section
/-! DEFINITION. Immediate arithmetic and logic (41_alu_immediate). -/

namespace Sys2Proof
namespace Machine

/-- LUI (R180). -/
def execLui (rt : Reg) (imm : Half) (s : State) : Result := .next (s.writeResult rt (upperImm imm))

/-- ORI (R181). -/
def execOri (rt rs : Reg) (imm : Half) (s : State) : Result := .next (s.writeResult rt (s.x rs ||| zeroExt16 imm))

/-- ANDI (R182). -/
def execAndi (rt rs : Reg) (imm : Half) (s : State) : Result := .next (s.writeResult rt (s.x rs &&& zeroExt16 imm))

/-- ADDI: code 12 on signed overflow, the destination then unwritten (R183). -/
def execAddi (rt rs : Reg) (imm : Half) (s : State) : Result :=
  if addOverflows (s.x rs) (signExt16 imm) then .next (s.raise .overflow)
  else .next (s.writeResult rt (s.x rs + signExt16 imm))

/-- ADDIU: the sum wraps (R184). -/
def execAddiu (rt rs : Reg) (imm : Half) (s : State) : Result := .next (s.writeResult rt (s.x rs + signExt16 imm))

/-- SLTI (R185). -/
def execSlti (rt rs : Reg) (imm : Half) (s : State) : Result :=
  .next (s.writeResult rt (boolWord (lessSigned (s.x rs) (signExt16 imm))))

/-- SLTIU: the immediate is sign-extended, then compared as unsigned (R186). -/
def execSltiu (rt rs : Reg) (imm : Half) (s : State) : Result :=
  .next (s.writeResult rt (boolWord (lessUnsigned (s.x rs) (signExt16 imm))))

end Machine
end Sys2Proof
end

