-- ==== Sys2Proof/Machine/AluReg.lean ====
section
/-! DEFINITION. Register arithmetic and logic (44_alu_register). -/

namespace Sys2Proof
namespace Machine

/-- ADD: code 12 on signed overflow, the destination then unwritten (R220). -/
def execAdd (rd rs rt : Reg) (s : State) : Result :=
  if addOverflows (s.x rs) (s.x rt) then .next (s.raise .overflow) else .next (s.writeResult rd (s.x rs + s.x rt))

/-- ADDU (R221). -/
def execAddu (rd rs rt : Reg) (s : State) : Result := .next (s.writeResult rd (s.x rs + s.x rt))

/-- SUB: code 12 on signed overflow, the destination then unwritten (R222). -/
def execSub (rd rs rt : Reg) (s : State) : Result :=
  if subOverflows (s.x rs) (s.x rt) then .next (s.raise .overflow) else .next (s.writeResult rd (s.x rs - s.x rt))

/-- SUBU (R223). -/
def execSubu (rd rs rt : Reg) (s : State) : Result := .next (s.writeResult rd (s.x rs - s.x rt))

/-- AND (R224). -/
def execAnd (rd rs rt : Reg) (s : State) : Result := .next (s.writeResult rd (s.x rs &&& s.x rt))

/-- OR (R225). -/
def execOr (rd rs rt : Reg) (s : State) : Result := .next (s.writeResult rd (s.x rs ||| s.x rt))

/-- XOR (R226). -/
def execXor (rd rs rt : Reg) (s : State) : Result := .next (s.writeResult rd (s.x rs ^^^ s.x rt))

/-- NOR (R227). -/
def execNor (rd rs rt : Reg) (s : State) : Result := .next (s.writeResult rd (~~~(s.x rs ||| s.x rt)))

/-- SLT (R228). -/
def execSlt (rd rs rt : Reg) (s : State) : Result :=
  .next (s.writeResult rd (boolWord (lessSigned (s.x rs) (s.x rt))))

/-- SLTU (R229). -/
def execSltu (rd rs rt : Reg) (s : State) : Result :=
  .next (s.writeResult rd (boolWord (lessUnsigned (s.x rs) (s.x rt))))

end Machine
end Sys2Proof
end

