-- ==== Sys2Proof/Machine/Coproc.lean ====
section
/-! DEFINITION. The coprocessor-unusable opcodes, code 11 with CE = `op[1:0]` and nothing else (30_encoding R142,
60_exceptions R297), and the refused opcodes, which the spec gives no meaning (30_encoding R141). -/

namespace Sys2Proof
namespace Machine

/-- COP1, `op` = 0x11. -/
def execCop1 (s : State) : Result := .next (s.raiseUnusable 1)

/-- COP3, `op` = 0x13. -/
def execCop3 (s : State) : Result := .next (s.raiseUnusable 3)

/-- LWC0, `op` = 0x30: no memory is read. -/
def execLwc0 (s : State) : Result := .next (s.raiseUnusable 0)

/-- LWC1, `op` = 0x31: no memory is read. -/
def execLwc1 (s : State) : Result := .next (s.raiseUnusable 1)

/-- LWC3, `op` = 0x33: no memory is read. -/
def execLwc3 (s : State) : Result := .next (s.raiseUnusable 3)

/-- SWC0, `op` = 0x38: no memory is written. -/
def execSwc0 (s : State) : Result := .next (s.raiseUnusable 0)

/-- SWC1, `op` = 0x39: no memory is written. -/
def execSwc1 (s : State) : Result := .next (s.raiseUnusable 1)

/-- SWC3, `op` = 0x3B: no memory is written. -/
def execSwc3 (s : State) : Result := .next (s.raiseUnusable 3)

/-- XORI, `op` = 0x0E: refused. -/
def execXori (_ : State) : Result := .refused (.outsideRequiredSet "XORI")

/-- COP2, `op` = 0x12: refused. -/
def execCop2 (_ : State) : Result := .refused (.outsideRequiredSet "COP2")

/-- LWL, `op` = 0x22: refused. -/
def execLwl (_ : State) : Result := .refused (.outsideRequiredSet "LWL")

/-- LWR, `op` = 0x26: refused. -/
def execLwr (_ : State) : Result := .refused (.outsideRequiredSet "LWR")

/-- SWL, `op` = 0x2A: refused. -/
def execSwl (_ : State) : Result := .refused (.outsideRequiredSet "SWL")

/-- SWR, `op` = 0x2E: refused. -/
def execSwr (_ : State) : Result := .refused (.outsideRequiredSet "SWR")

/-- LWC2, `op` = 0x32: refused. -/
def execLwc2 (_ : State) : Result := .refused (.outsideRequiredSet "LWC2")

/-- SWC2, `op` = 0x3A: refused. -/
def execSwc2 (_ : State) : Result := .refused (.outsideRequiredSet "SWC2")

end Machine
end Sys2Proof
end

