-- ==== Sys2Proof/Machine/JumpBranch.lean ====
section
/-! DEFINITION. Jumps and branches (46_jump_branch). During execute `pc` is the delay slot's address and `next_pc` the address
after it; all twelve act by writing `next_pc`, and the linking ones one register. -/

namespace Sys2Proof
namespace Machine

/-- J (R250). -/
def execJ (target : BitVec 26) (s : State) : Result := .next (s.jumpTo (s.jumpTarget target))

/-- JAL: the link is `next_pc` as it stood (R251). -/
def execJal (target : BitVec 26) (s : State) : Result := .next ((s.jumpTo (s.jumpTarget target)).setReg 31 s.nextPc)

/-- JR: any register value (R252, R254). -/
def execJr (rs : Reg) (s : State) : Result := .next (s.jumpTo (s.x rs))

/-- JALR: reads `rs` before the link is written (R253). -/
def execJalr (rd rs : Reg) (s : State) : Result := .next ((s.jumpTo (s.x rs)).setReg rd s.nextPc)

/-- BEQ (R256). -/
def execBeq (rs rt : Reg) (offset : Half) (s : State) : Result :=
  .next (s.branchIf (s.x rs == s.x rt) (s.branchTarget offset))

/-- BNE (R257). -/
def execBne (rs rt : Reg) (offset : Half) (s : State) : Result :=
  .next (s.branchIf (s.x rs != s.x rt) (s.branchTarget offset))

/-- BLEZ (R258). -/
def execBlez (rs : Reg) (offset : Half) (s : State) : Result :=
  .next (s.branchIf (isNonPositive (s.x rs)) (s.branchTarget offset))

/-- BGTZ (R259). -/
def execBgtz (rs : Reg) (offset : Half) (s : State) : Result :=
  .next (s.branchIf (isPositive (s.x rs)) (s.branchTarget offset))

/-- BLTZ (R260). -/
def execBltz (rs : Reg) (offset : Half) (s : State) : Result :=
  .next (s.branchIf (isNegative (s.x rs)) (s.branchTarget offset))

/-- BGEZ (R261). -/
def execBgez (rs : Reg) (offset : Half) (s : State) : Result :=
  .next (s.branchIf (isNonNegative (s.x rs)) (s.branchTarget offset))

/-- BLTZAL: links whether or not the branch is taken (R262). -/
def execBltzal (rs : Reg) (offset : Half) (s : State) : Result :=
  .next ((s.branchIf (isNegative (s.x rs)) (s.branchTarget offset)).setReg 31 s.nextPc)

/-- BGEZAL: links whether or not the branch is taken (R263). -/
def execBgezal (rs : Reg) (offset : Half) (s : State) : Result :=
  .next ((s.branchIf (isNonNegative (s.x rs)) (s.branchTarget offset)).setReg 31 s.nextPc)

end Machine
end Sys2Proof
end

