-- ==== Sys2Proof/Machine/LoadStore.lean ====
section
/-! DEFINITION. Loads and stores (42_load_store). The alignment check is made on the virtual address before anything else; an
access that fails it takes the address error and touches no memory (20_memory R77). -/

namespace Sys2Proof
namespace Machine

/-- LW (R192). -/
def execLw (rt : Reg) (offset : Half) (base : Reg) (s : State) : Result :=
  let addr := s.effectiveAddress base offset
  if wordAligned addr then .next (s.loadFrom rt addr .word asWord) else .next (s.raiseAddress .addressErrorLoad addr)

/-- LH (R193). -/
def execLh (rt : Reg) (offset : Half) (base : Reg) (s : State) : Result :=
  let addr := s.effectiveAddress base offset
  if halfAligned addr then .next (s.loadFrom rt addr .half asSignedHalf)
  else .next (s.raiseAddress .addressErrorLoad addr)

/-- LHU (R194). -/
def execLhu (rt : Reg) (offset : Half) (base : Reg) (s : State) : Result :=
  let addr := s.effectiveAddress base offset
  if halfAligned addr then .next (s.loadFrom rt addr .half asUnsignedHalf)
  else .next (s.raiseAddress .addressErrorLoad addr)

/-- LB (R195). -/
def execLb (rt : Reg) (offset : Half) (base : Reg) (s : State) : Result :=
  .next (s.loadFrom rt (s.effectiveAddress base offset) .byte asSignedByte)

/-- LBU (R196). -/
def execLbu (rt : Reg) (offset : Half) (base : Reg) (s : State) : Result :=
  .next (s.loadFrom rt (s.effectiveAddress base offset) .byte asUnsignedByte)

/-- SW (R197). -/
def execSw (rt : Reg) (offset : Half) (base : Reg) (s : State) : Result :=
  let addr := s.effectiveAddress base offset
  if wordAligned addr then s.storeTo addr .word (s.x rt) else .next (s.raiseAddress .addressErrorStore addr)

/-- SH: bits 15:0 of the register (R198). -/
def execSh (rt : Reg) (offset : Half) (base : Reg) (s : State) : Result :=
  let addr := s.effectiveAddress base offset
  if halfAligned addr then s.storeTo addr .half (s.x rt) else .next (s.raiseAddress .addressErrorStore addr)

/-- SB: bits 7:0 of the register (R199). -/
def execSb (rt : Reg) (offset : Half) (base : Reg) (s : State) : Result :=
  s.storeTo (s.effectiveAddress base offset) .byte (s.x rt)

end Machine
end Sys2Proof
end

