-- ==== Sys2Proof/Machine/MulDiv.lean ====
section
/-! DEFINITION. Multiply, divide and the HI/LO moves (45_muldiv). Products and quotients are exact integers, cut at the end. -/

namespace Sys2Proof
namespace Machine

/-- The exact signed product in 64 bits (R235). -/
def productSigned (a b : Word) : BitVec 64 := BitVec.ofInt 64 (a.toInt * b.toInt)

/-- The exact unsigned product in 64 bits (R236). -/
def productUnsigned (a b : Word) : BitVec 64 := BitVec.ofNat 64 (a.toNat * b.toNat)

/-- LO after DIV: the quotient rounded toward zero, and the two defined corner cases (R237). -/
def quotientSigned (n d : Word) : Word :=
  if d = 0 then (if 0 ≤ n.toInt then 0xFFFFFFFF else 1)
  else if n = 0x80000000 ∧ d = 0xFFFFFFFF then 0x80000000
  else BitVec.ofInt 32 (n.toInt.tdiv d.toInt)

/-- HI after DIV: the remainder, and the two defined corner cases (R237). -/
def remainderSigned (n d : Word) : Word :=
  if d = 0 then n
  else if n = 0x80000000 ∧ d = 0xFFFFFFFF then 0
  else BitVec.ofInt 32 (n.toInt - d.toInt * n.toInt.tdiv d.toInt)

/-- LO after DIVU (R238). -/
def quotientUnsigned (n d : Word) : Word := if d = 0 then 0xFFFFFFFF else BitVec.ofNat 32 (n.toNat / d.toNat)

/-- HI after DIVU (R238). -/
def remainderUnsigned (n d : Word) : Word := if d = 0 then n else BitVec.ofNat 32 (n.toNat % d.toNat)

/-- MULT (R235). -/
def execMult (rs rt : Reg) (s : State) : Result :=
  let p := productSigned (s.x rs) (s.x rt)
  .next (s.writeHiLo (p.extractLsb' 32 32) (p.extractLsb' 0 32))

/-- MULTU (R236). -/
def execMultu (rs rt : Reg) (s : State) : Result :=
  let p := productUnsigned (s.x rs) (s.x rt)
  .next (s.writeHiLo (p.extractLsb' 32 32) (p.extractLsb' 0 32))

/-- DIV (R237). -/
def execDiv (rs rt : Reg) (s : State) : Result :=
  .next (s.writeHiLo (remainderSigned (s.x rs) (s.x rt)) (quotientSigned (s.x rs) (s.x rt)))

/-- DIVU (R238). -/
def execDivu (rs rt : Reg) (s : State) : Result :=
  .next (s.writeHiLo (remainderUnsigned (s.x rs) (s.x rt)) (quotientUnsigned (s.x rs) (s.x rt)))

/-- MFHI: written in its own step (R239). -/
def execMfhi (rd : Reg) (s : State) : Result := .next (s.writeResult rd s.hi)

/-- MFLO: written in its own step (R240). -/
def execMflo (rd : Reg) (s : State) : Result := .next (s.writeResult rd s.lo)

/-- MTHI: LO stays (R241). -/
def execMthi (rs : Reg) (s : State) : Result := .next (s.writeHiLo (s.x rs) s.lo)

/-- MTLO: HI stays (R242). -/
def execMtlo (rs : Reg) (s : State) : Result := .next (s.writeHiLo s.hi (s.x rs))

end Machine
end Sys2Proof
end

