-- ==== Sys2Proof/Machine/Shift.lean ====
section
/-! DEFINITION. Shifts (43_shift). -/

namespace Sys2Proof
namespace Machine

/-- SLL (R210). -/
def execSll (rd rt : Reg) (shamt : Nat) (s : State) : Result := .next (s.writeResult rd (s.x rt <<< shamt))

/-- SRL (R211). -/
def execSrl (rd rt : Reg) (shamt : Nat) (s : State) : Result := .next (s.writeResult rd (s.x rt >>> shamt))

/-- SRA (R212). -/
def execSra (rd rt : Reg) (shamt : Nat) (s : State) : Result := .next (s.writeResult rd ((s.x rt).sshiftRight shamt))

/-- SLLV (R213). -/
def execSllv (rd rt rs : Reg) (s : State) : Result := .next (s.writeResult rd (s.x rt <<< s.shiftAmount rs))

/-- SRLV (R214). -/
def execSrlv (rd rt rs : Reg) (s : State) : Result := .next (s.writeResult rd (s.x rt >>> s.shiftAmount rs))

/-- SRAV (R215). -/
def execSrav (rd rt rs : Reg) (s : State) : Result :=
  .next (s.writeResult rd ((s.x rt).sshiftRight (s.shiftAmount rs)))

end Machine
end Sys2Proof
end

