-- ==== Sys2Proof/Machine/System.lean ====
section
/-! DEFINITION. SYSCALL, BREAK and the COP0 instructions (47_system_cop0). No mode is checked: nothing tests KUc (60_exceptions
R320). -/

namespace Sys2Proof
namespace Machine

/-- SYSCALL: code 8 (R270). -/
def execSyscall (s : State) : Result := .next (s.raise .syscall)

/-- BREAK: code 9 (R271). -/
def execBreak (s : State) : Result := .next (s.raise .breakpoint)

/-- MFC0: through the load delay when MFC0_DELAYED (R272). -/
def execMfc0 (rt : Reg) (n : Nat) (s : State) : Result :=
  let v := (s.cop0Read n).1
  let s1 := (s.cop0Read n).2
  .next (if s.params.mfc0Delayed then s1.delayedLoad rt v else s1.writeResult rt v)

/-- MTC0: in force from the next step on (R273). -/
def execMtc0 (rt : Reg) (n : Nat) (s : State) : Result := .next (s.land.cop0Write n (s.x rt))

/-- RFE: pops the SR stack; no jump (R274). -/
def execRfe (s : State) : Result := .next s.returnFromException

end Machine
end Sys2Proof
end

