-- ==== Sys2Proof/Machine/CpuStep.lean ====
section
/-! DEFINITION. One step of the CPU (40_cpu_step R160): poll, latch and check, fetch and advance, execute, force. -/

namespace Sys2Proof
namespace Machine

/-! ## The poll -/

/-- The poll: CAUSE bit 10 samples the aggregated interrupt line (40_cpu_step R161, 60_exceptions R315). -/
def State.poll (s : State) : State := { s with cause := setBit s.cause 10 s.irqLine }

/-- The interrupt condition, tested after the sample (60_exceptions R316). -/
def State.interruptDue (s : State) : Bool :=
  testBit s.sr 0 && (s.cause.extractLsb' 10 6 &&& s.sr.extractLsb' 10 6) != 0#6

/-- The interrupt, before the fetch: victim `pc`, follower `next_pc`; the pending load keeps its pair (40_cpu_step R161). -/
def State.takeInterrupt (s : State) : State := s.enterException .interrupt s.pc s.nextPc 0

/-! ## Latch and check -/

/-- `current_pc <- pc` (40_cpu_step R162). -/
def State.latch (s : State) : State := { s with currentPc := s.pc }

/-- The fetch address is a multiple of 4 (20_memory R78). -/
def State.fetchAligned (s : State) : Bool := wordAligned s.currentPc

/-- The address error of a misaligned fetch: BadVAddr and victim `current_pc`, follower `next_pc` (40_cpu_step R162). -/
def State.takeFetchError (s : State) : State :=
  { s with badVaddr := s.currentPc }.enterException .addressErrorLoad s.currentPc s.nextPc 0

/-! ## Fetch and advance -/

/-- The fetch: a 32-bit read at `current_pc` on the path of every data load (40_cpu_step R163, 20_memory R108). -/
def State.fetch (s : State) : Word × State := s.memRead s.currentPc .word

/-- `pc <- next_pc; next_pc <- pc + 4` (40_cpu_step R163). -/
def State.advance (s : State) : State := { s with pc := s.nextPc, nextPc := s.nextPc + 4 }

/-! ## Execute -/

/-- What a word that is no instruction of the table does: code 10, or a refusal (30_encoding R140, R141). No word is too
short: that error is of byte lists only, and stands with the reserved words. -/
def State.executeOther (s : State) (e : DecodeError) : Result :=
  match e with
  | .reservedInstruction => .next (s.raise .reservedInstruction)
  | .tooShort => .next (s.raise .reservedInstruction)
  | .regimmSelector => .refused .regimmSelector
  | .cop0SubOpcode => .refused .cop0SubOpcode

/-- `execute(instr)` (40_cpu_step R169). -/
def State.execute (s : State) (w : Word) : Result :=
  match decode w with
  | .ok i => exec i s
  | .error e => s.executeOther e

/-- Lines (4) to (6) on the fetched word: drain and execute, then register 0 is forced (40_cpu_step R160). -/
def State.executeAndForce (s : State) (w : Word) : Result := andThen (s.execute w) fun t => .next t.forceZero

/-! ## The step -/

/-- Lines (2) to (6): latch, check, fetch, advance, execute, force. -/
def State.runInstruction (s : State) : Result :=
  let s1 := s.latch
  if s1.fetchAligned then s1.fetch.2.advance.executeAndForce s1.fetch.1 else .next s1.takeFetchError

/-- One step of the CPU (40_cpu_step R160). -/
def State.cpuStep (s : State) : Result :=
  let s1 := s.poll
  if s1.interruptDue then .next s1.takeInterrupt else s1.runInstruction

/-! ## Placing an instruction -/

/-- Store a word's four bytes at `pc`, where the next step fetches: in the BIOS image or in RAM (log 4). Elsewhere nothing can be
placed and nothing changes. -/
def State.placeWordAtPc (s : State) (w : Word) : State :=
  match deviceAt (translate s.pc) with
  | some (.bios, off) => { s with bios := s.bios.storeBytes off 4 w }
  | some (.ram, off) => s.ramWrite off 4 w
  | _ => s

end Machine
end Sys2Proof
end

