-- ==== Sys2Proof/Machine/RunLoop.lean ====
section
/-! DEFINITION. What happens between two CPU steps: the device advance, `Present`, and the environment's actions
(70_reset_and_hazards R560, R564). -/

namespace Sys2Proof
namespace Machine

/-- `advance_devices(c)`: the CD-ROM before the timers (70_reset_and_hazards R560). -/
def State.advanceDevices (s : State) (cycles : Nat) : State := (s.cdAdvance cycles).advanceTimers cycles

/-- The step counter of the run loop goes up by one: every call of `step` counts (R560). -/
def State.countStep (s : State) : State := { s with stepCount := s.stepCount + 1 }

/-- The device advance, when the step counter is a multiple of DEV_QUANTUM (R560). -/
def State.advanceWhenDue (s : State) : State :=
  if s.stepCount % s.params.devQuantum = 0 then s.advanceDevices (s.params.devQuantum * Config.cyclesPerStep) else s

/-- `Present` at a frame boundary (R563, 64_gpu R528). -/
def State.presentWhenDue (s : State) : State :=
  if s.stepCount % Config.frameSteps = 0 then s.emit .present else s

/-- The lines that only the environment can request (60_exceptions R310). -/
def externalLine (line : Nat) : Bool := line == 0 || line == 1 || line == 7 || line == 8 || line == 9 || line == 10

/-- One action of the environment (R564). A request needs EXT_IRQ and an external line; it does nothing otherwise (log 10). -/
def State.environmentAction (s : State) (a : EnvAction) : State :=
  match a with
  | .loadDisc source => s.loadDisc source
  | .requestIrq line => if s.params.extIrq && externalLine line then s.requestIrq line else s

/-- The environment's actions at this boundary, the first of the script; the rest of the script stays (log 10, 12). -/
def State.environmentTurn (s : State) : State :=
  match s.inputs with
  | [] => s
  | now :: later => now.foldl State.environmentAction { s with inputs := later }

/-- The boundary after a CPU step: count, advance, present, environment (R560, R564). -/
def State.stepBoundary (s : State) : State := s.countStep.advanceWhenDue.presentWhenDue.environmentTurn

end Machine
end Sys2Proof
end

