-- ==== Sys2Proof/Machine/Step.lean ====
section
/-! DEFINITION. The machine's step: one turn of the run loop, and where its next instruction is placed. -/

namespace Sys2Proof
namespace Machine

/-- One turn of the run loop: one step of the CPU, then the step boundary (40_cpu_step R160, 70_reset_and_hazards R560;
log 12). -/
def step (s : State) : Host.Outcome State Fault Refusal := andThen s.cpuStep fun t => .next t.stepBoundary

/-- The state with one instruction stored where the next step fetches (log 4). -/
def State.withFetchWord (s : State) (nbits w : Nat) : State := s.placeWordAtPc (tableWord nbits w)

end Machine
end Sys2Proof
end

