-- ==== Sys2Proof/Machine/Run.lean ====
section
/-! DEFINITION. A run of the machine and its end (40_cpu_step R174, 93_implementation_defined U22): the step itself goes on for
ever, and a run takes steps up to the end that the parameter `runEnd` gives. -/

namespace Sys2Proof
namespace Machine

/-- The run ends before the next step: the steps or frames are done, or `pc` is at the end address (R174; log 25). -/
def State.runEnded (s : State) : Bool :=
  match s.params.runEnd with
  | .steps n => decide (n ≤ s.stepCount)
  | .frames n => decide (n * Config.frameSteps ≤ s.stepCount)
  | .pcReaches address => s.pc == address

/-- A run, cut off after `limit` steps where its end has not come before: a program that spins has a run of every length (R174). A
fault or refusal of a step is the run's. -/
def run : (limit : Nat) → State → Result
  | 0, s => .next s
  | limit + 1, s => if s.runEnded then .next s else andThen (step s) (run limit)

end Machine
end Sys2Proof
end

