-- ==== Sys2Proof/Safety.lean ====
section
/-! DEFINITION. The invariants of the machine in the terms the claims use: what the spec says always holds. Every one is a
Bool-valued or decidable condition on one state. -/

namespace Sys2Proof
namespace Safety

open Machine

/-! ## What an instruction leaves -/

/-- Every byte of the three stores reads as before. -/
def memorySame (s t : State) : Prop :=
  (∀ k, t.ramByte k = s.ramByte k) ∧ (∀ k, t.biosByte k = s.biosByte k) ∧ (∀ k, t.vramByte k = s.vramByte k)

/-- `t` differs from `s` at most in the devices and the stores: no register, program counter, COP0 register, slot, step counter,
parameter or script entry changed. -/
def devicesOnly (s t : State) : Prop :=
  t = { s with
    iStat := t.iStat, iMask := t.iMask, ram := t.ram, vram := t.vram, dma := t.dma, timers := t.timers, cd := t.cd,
    gpu := t.gpu, trace := t.trace, freeCount := t.freeCount }

/-- `t` differs from `s` at most in what a read can change: the CD-ROM's cursors, the GPU's read record and mode, the count of
free values (20_memory R100). -/
def readOnly (s t : State) : Prop := t = { s with cd := t.cd, gpu := t.gpu, freeCount := t.freeCount }

/-- Register `r` after the pending load of `s` has landed (40_cpu_step R164, R166). -/
def landedReg (s : State) (r : Reg) : Word :=
  if r = 0 then 0 else if r = s.pending.index then s.pending.value else s.x r

/-- `t` is `s` after the drain, then `x[d] <- v`, `HI <- hi`, `LO <- lo`, `next_pc <- np`, and nothing else: the other registers
hold what the drain left, the slot is empty, and every other field and every byte of memory is as in `s`. -/
def wrote (s : State) (d : Reg) (v hi lo np : Word) (t : State) : Prop :=
  (∀ r, t.x r = if r = 0 then 0 else if r = d then v else landedReg s r) ∧
    t = { s with regs := t.regs, pending := { index := 0, value := 0 }, hi := hi, lo := lo, nextPc := np } ∧
    memorySame s t

/-- As `wrote`, for an instruction that writes no register. -/
def drained (s : State) (hi lo np : Word) (t : State) : Prop := wrote s 0 0 hi lo np t

/-- The slot and the registers of `t` after `DelayedLoad(j, w)`: the drain, and `(j, w)` in the slot. With LOAD_DISCARD register
`j` keeps its value: the landing is undone if it was to `j`, and no other landing touches `j` (40_cpu_step R167). -/
def loadDelayed (s : State) (j : Reg) (w : Word) (t : State) : Prop :=
  t.pending = { index := j, value := w } ∧
    ∀ r, t.x r = if s.params.loadDiscard = true ∧ r = j then s.x r else landedReg s r

/-- `t` is `s` after an exception raised during execute, `bad` the value of BadVAddr (60_exceptions R300, R301): the drain, the
pushed SR stack, CAUSE, EPC, the vector, and every other field and every byte of memory as in `s`. -/
def tookException (s : State) (code : Nat) (ce : Nat) (bad : Word) (t : State) : Prop :=
  (∀ r, t.x r = landedReg s r) ∧
    t.sr = (s.sr &&& 0xFFFFFFC0) ||| ((s.sr &&& 0x0000000F) <<< 2) ∧
    t.cause = (s.cause &&& 0x4FFFFF83) ||| BitVec.ofNat 32 (4 * code) ||| BitVec.ofNat 32 (0x10000000 * ce) |||
      (if s.pc = s.currentPc + 4 then 0 else 0x80000000) ∧
    t.epc = (if s.pc = s.currentPc + 4 then s.currentPc else s.currentPc - 4) ∧
    t.pc = (if s.sr.getLsbD 22 then 0xBFC00180 else 0x80000080) ∧ t.nextPc = t.pc + 4 ∧
    t = { s with
      regs := t.regs, pending := { index := 0, value := 0 }, sr := t.sr, cause := t.cause, epc := t.epc, pc := t.pc,
      nextPc := t.nextPc, badVaddr := bad } ∧
    memorySame s t

/-- `t` is `s` after the drain and nothing else but what the named COP0 values say (47_system_cop0 R273, R274). -/
def wroteCop0 (s : State) (sr cause : Word) (t : State) : Prop :=
  (∀ r, t.x r = landedReg s r) ∧
    t = { s with regs := t.regs, pending := { index := 0, value := 0 }, sr := sr, cause := cause } ∧ memorySame s t

/-- Virtual address `a` is byte `k` of main RAM (20_memory R72, R82). -/
def ramAddress (a : Word) (k : Nat) : Prop := (Machine.translate a).toNat = k ∧ k < 0x200000

/-! ## Invariants -/

/-- Register 0 is 0 (10_state R21). -/
def zeroRegister (s : State) : Prop := s.regs[0] = 0

/-- The three stores are canonical cell lists inside their sizes (10_state R47 to R49). -/
def storesCanonical (s : State) : Prop :=
  Memory.wf Config.ramSize s.ram = true ∧ Memory.wf Config.biosSize s.bios = true ∧
    Memory.wf Config.vramSize s.vram = true

/-- CAUSE bits 1:0, 7, 15:11, 27:16 and 30 are 0 (10_state R42). -/
def causeReserved (s : State) : Prop := s.cause &&& 0x4FFFF883 = 0

/-- The codes that can stand in CAUSE bits 6:2 (60_exceptions R290, R291). -/
def legalCode (code : BitVec 5) : Bool :=
  code == 0 || code == 4 || code == 5 || code == 8 || code == 9 || code == 10 || code == 11 || code == 12

/-- CAUSE bits 6:2 hold one of the eight codes (60_exceptions R291). -/
def causeCode (s : State) : Prop := legalCode (s.cause.extractLsb' 2 5) = true

/-- DICR bits 14:6 are 0 (61_dma R346). -/
def dicrReserved (s : State) : Prop := s.dma.dicr &&& 0x00007FC0 = 0

/-- DICR bit 31 is the master flag that the other bits give (61_dma R348). -/
def dicrMasterFollows (s : State) : Prop := testBit s.dma.dicr 31 = dicrMaster s.dma.dicr

/-- No DMA channel is active between two steps (10_state R50, 61_dma R350). -/
def noChannelActive (s : State) : Prop := ∀ n : Fin 7, chcrActive (s.dmaChannel n).chcr = false

/-- Every retained fraction is below 1 (62_timers R388, R397). -/
def timerFractions (s : State) : Prop := ∀ i : Fin 3, (s.timer i).frac < Params.fracDen s.params

/-- The CD-ROM invariants of 63_cdrom R455, and that `busy` is 1 exactly in the three busy states (R450). -/
def cdBounds (c : Cdrom) : Prop :=
  c.paramFifo.length ≤ 16 ∧ c.responseFifo.length ≤ 16 ∧ c.dataPos ≤ c.dataLen ∧ c.dataLen ≤ 2352 ∧
    c.dataBuf.length ≤ 2352 ∧
    (0 < c.delay ↔ c.pendingCmd = 0x06 ∨ c.pendingCmd = 0x15 ∨ c.pendingCmd = 0x1A) ∧
    (c.busy = true ↔ c.cdState = .cmdExec ∨ c.cdState = .reading ∨ c.cdState = .getIdPending)

/-- The GPU invariants of 64_gpu R529; the two bounds on the buffer stand as one bound on their sum, which a word keeps. -/
def gpuBounds (g : Gpu) : Prop :=
  g.cmdRemaining ≤ 8 ∧ g.cmdBuf.length + g.cmdRemaining ≤ 9 ∧
    (g.gp0Mode = .imageLoad → 0 < g.ld.words ∧ g.cmdRemaining = 0) ∧
    (g.gp0Mode = .vramToCpu → 0 < g.rd.words ∧ g.cmdRemaining = 0)

/-- Send words to GP0 one after the other (64_gpu R472). -/
def gp0WriteAll : List Word → State → Result
  | [], s => .next s
  | w :: rest, s => andThen (s.gp0Write w) (gp0WriteAll rest)

/-- Read GPUREAD `count` times: the words in order and the state after (64_gpu R513). -/
def gpuReadAll : (count : Nat) → State → List Word × State
  | 0, s => ([], s)
  | count + 1, s =>
    let r := s.gpuRead
    let rest := gpuReadAll count r.2
    (r.1 :: rest.1, rest.2)

/-- The words of main RAM at the `count` addresses after `a`, each 4 above the last (61_dma R355). -/
def ramWordsAfter (s : State) : (count : Nat) → (a : Word) → List Word
  | 0, _ => []
  | count + 1, a => s.dmaRamRead (dmaStep false a) :: ramWordsAfter s count (dmaStep false a)

/-- A linked list in main RAM from address `a` on, with the concatenation of its packet payloads: `packets` headers, the last one
with bit 23 set and no other (61_dma R355). -/
def packetChain (s : State) : (packets : Nat) → (a : Word) → List Word → Prop
  | 0, _, _ => False
  | packets + 1, a, words =>
    let header := s.dmaRamRead a
    let payload := ramWordsAfter s (header.extractLsb' 24 8).toNat a
    if testBit header 23 then words = payload
    else ∃ rest, words = payload ++ rest ∧ packetChain s packets (dmaAddress header) rest

end Safety
end Sys2Proof
end

