-- ==== Sys2Proof/Certificates/Slice0/Obligations.lean ====
section
/-! DEFINITION. The statements about the machine, for the provers. Results are said in the spec's own arithmetic, not through the
model's operand functions; `Safety.wrote`, `Safety.drained`, `Safety.loadDelayed` and `Safety.tookException` say the whole frame:
every other register, every other field and every byte of memory. -/

open Sys2Proof Sys2Proof.Machine

/-! ## Decoding -/

/-- Words written out from the encoding tables decode to the instructions they stand for (30_encoding R137 to R139, and the word
of the document's second scenario). -/
def Obligations.WrittenOutWordsDecode : Prop :=
  decode 0x35080FFF = .ok (.ori 8 8 0x0FFF) ∧ decode 0x3C081F00 = .ok (.lui 8 0x1F00) ∧
    decode 0x8C41FFFC = .ok (.lw 1 0xFFFC 2) ∧ decode 0x00020903 = .ok (.sra 1 2 4) ∧
    decode 0x0043082A = .ok (.slt 1 2 3) ∧ decode 0x0043001A = .ok (.div 2 3) ∧ decode 0x0040F809 = .ok (.jalr 31 2) ∧
    decode 0x07F10002 = .ok (.bgezal 31 2) ∧ decode 0x40826000 = .ok (.mtc0 2 12) ∧ decode 0x42000010 = .ok .rfe ∧
    decode 0xC4000000 = .ok .lwc1 ∧ decode 0x38000000 = .ok .xori

/-- Decoding what the encoder writes gives the instruction back, for every well-formed instruction and every operand. -/
def Obligations.DecodeOfEncode : Prop := ∀ i : Instr, i.wellFormed = true → decode (encode i) = .ok i

/-- Every word the decoder accepts is a well-formed instruction, and encoding it again gives a word of the same instruction. -/
def Obligations.DecodedWordsAreWellFormed : Prop :=
  ∀ (w : Word) (i : Instr), decode w = .ok i → i.wellFormed = true ∧ decode (encode i) = decode w

/-! ## Immediate and register arithmetic, shifts -/

/-- LUI, ORI, ANDI, ADDIU, SLTI, SLTIU: the word, the result, the frame (41_alu_immediate R180 to R182, R184 to R186). -/
def Obligations.ImmediateInstructionsWriteTheirResult : Prop :=
  (∀ w : Word,
    (w.extractLsb' 26 6 = 0x0F → decode w = .ok (.lui (w.extractLsb' 16 5) (w.extractLsb' 0 16))) ∧
    (w.extractLsb' 26 6 = 0x0D → decode w = .ok (.ori (w.extractLsb' 16 5) (w.extractLsb' 21 5) (w.extractLsb' 0 16))) ∧
    (w.extractLsb' 26 6 = 0x0C → decode w = .ok (.andi (w.extractLsb' 16 5) (w.extractLsb' 21 5) (w.extractLsb' 0 16))) ∧
    (w.extractLsb' 26 6 = 0x09 → decode w = .ok (.addiu (w.extractLsb' 16 5) (w.extractLsb' 21 5) (w.extractLsb' 0 16))) ∧
    (w.extractLsb' 26 6 = 0x0A → decode w = .ok (.slti (w.extractLsb' 16 5) (w.extractLsb' 21 5) (w.extractLsb' 0 16))) ∧
    (w.extractLsb' 26 6 = 0x0B → decode w = .ok (.sltiu (w.extractLsb' 16 5) (w.extractLsb' 21 5) (w.extractLsb' 0 16)))) ∧
  ∀ (s : State) (rt rs : Reg) (imm : Half),
    (∃ t, exec (.lui rt imm) s = .next t ∧
      Safety.wrote s rt (BitVec.ofNat 32 (65536 * imm.toNat)) s.hi s.lo s.nextPc t) ∧
    (∃ t, exec (.ori rt rs imm) s = .next t ∧
      Safety.wrote s rt (s.x rs ||| BitVec.ofNat 32 imm.toNat) s.hi s.lo s.nextPc t) ∧
    (∃ t, exec (.andi rt rs imm) s = .next t ∧
      Safety.wrote s rt (s.x rs &&& BitVec.ofNat 32 imm.toNat) s.hi s.lo s.nextPc t) ∧
    (∃ t, exec (.addiu rt rs imm) s = .next t ∧
      Safety.wrote s rt (s.x rs + BitVec.ofInt 32 imm.toInt) s.hi s.lo s.nextPc t) ∧
    (∃ t, exec (.slti rt rs imm) s = .next t ∧
      Safety.wrote s rt (if (s.x rs).toInt < imm.toInt then 1 else 0) s.hi s.lo s.nextPc t) ∧
    (∃ t, exec (.sltiu rt rs imm) s = .next t ∧
      Safety.wrote s rt (if (s.x rs).toNat < (BitVec.ofInt 32 imm.toInt).toNat then 1 else 0) s.hi s.lo s.nextPc t)

/-- SLL, SRL, SRA, SLLV, SRLV, SRAV: the word, the result, the frame (43_shift R210 to R215). -/
def Obligations.ShiftsWriteTheirResult : Prop :=
  (∀ w : Word, w.extractLsb' 26 6 = 0x00 →
    (w.extractLsb' 0 6 = 0x00 →
      decode w = .ok (.sll (w.extractLsb' 11 5) (w.extractLsb' 16 5) (w.extractLsb' 6 5).toNat)) ∧
    (w.extractLsb' 0 6 = 0x02 →
      decode w = .ok (.srl (w.extractLsb' 11 5) (w.extractLsb' 16 5) (w.extractLsb' 6 5).toNat)) ∧
    (w.extractLsb' 0 6 = 0x03 →
      decode w = .ok (.sra (w.extractLsb' 11 5) (w.extractLsb' 16 5) (w.extractLsb' 6 5).toNat)) ∧
    (w.extractLsb' 0 6 = 0x04 → decode w = .ok (.sllv (w.extractLsb' 11 5) (w.extractLsb' 16 5) (w.extractLsb' 21 5))) ∧
    (w.extractLsb' 0 6 = 0x06 → decode w = .ok (.srlv (w.extractLsb' 11 5) (w.extractLsb' 16 5) (w.extractLsb' 21 5))) ∧
    (w.extractLsb' 0 6 = 0x07 → decode w = .ok (.srav (w.extractLsb' 11 5) (w.extractLsb' 16 5) (w.extractLsb' 21 5)))) ∧
  ∀ (s : State) (rd rt rs : Reg),
    (∀ n, n < 32 →
      (∃ t, exec (.sll rd rt n) s = .next t ∧
        Safety.wrote s rd (BitVec.ofNat 32 ((s.x rt).toNat * 2 ^ n)) s.hi s.lo s.nextPc t) ∧
      (∃ t, exec (.srl rd rt n) s = .next t ∧
        Safety.wrote s rd (BitVec.ofNat 32 ((s.x rt).toNat / 2 ^ n)) s.hi s.lo s.nextPc t) ∧
      (∃ t, exec (.sra rd rt n) s = .next t ∧
        Safety.wrote s rd (BitVec.ofInt 32 ((s.x rt).toInt / 2 ^ n)) s.hi s.lo s.nextPc t)) ∧
    (∃ t, exec (.sllv rd rt rs) s = .next t ∧
      Safety.wrote s rd (BitVec.ofNat 32 ((s.x rt).toNat * 2 ^ ((s.x rs).toNat % 32))) s.hi s.lo s.nextPc t) ∧
    (∃ t, exec (.srlv rd rt rs) s = .next t ∧
      Safety.wrote s rd (BitVec.ofNat 32 ((s.x rt).toNat / 2 ^ ((s.x rs).toNat % 32))) s.hi s.lo s.nextPc t) ∧
    (∃ t, exec (.srav rd rt rs) s = .next t ∧
      Safety.wrote s rd (BitVec.ofInt 32 ((s.x rt).toInt / 2 ^ ((s.x rs).toNat % 32))) s.hi s.lo s.nextPc t)

/-- ADDU, SUBU, AND, OR, XOR, NOR, SLT, SLTU: the word, the result, the frame (44_alu_register R221, R223 to R229). -/
def Obligations.RegisterInstructionsWriteTheirResult : Prop :=
  (∀ w : Word, w.extractLsb' 26 6 = 0x00 →
    (w.extractLsb' 0 6 = 0x21 → decode w = .ok (.addu (w.extractLsb' 11 5) (w.extractLsb' 21 5) (w.extractLsb' 16 5))) ∧
    (w.extractLsb' 0 6 = 0x23 → decode w = .ok (.subu (w.extractLsb' 11 5) (w.extractLsb' 21 5) (w.extractLsb' 16 5))) ∧
    (w.extractLsb' 0 6 = 0x24 → decode w = .ok (.and (w.extractLsb' 11 5) (w.extractLsb' 21 5) (w.extractLsb' 16 5))) ∧
    (w.extractLsb' 0 6 = 0x25 → decode w = .ok (.or (w.extractLsb' 11 5) (w.extractLsb' 21 5) (w.extractLsb' 16 5))) ∧
    (w.extractLsb' 0 6 = 0x26 → decode w = .ok (.xor (w.extractLsb' 11 5) (w.extractLsb' 21 5) (w.extractLsb' 16 5))) ∧
    (w.extractLsb' 0 6 = 0x27 → decode w = .ok (.nor (w.extractLsb' 11 5) (w.extractLsb' 21 5) (w.extractLsb' 16 5))) ∧
    (w.extractLsb' 0 6 = 0x2A → decode w = .ok (.slt (w.extractLsb' 11 5) (w.extractLsb' 21 5) (w.extractLsb' 16 5))) ∧
    (w.extractLsb' 0 6 = 0x2B → decode w = .ok (.sltu (w.extractLsb' 11 5) (w.extractLsb' 21 5) (w.extractLsb' 16 5)))) ∧
  ∀ (s : State) (rd rs rt : Reg),
    (∃ t, exec (.addu rd rs rt) s = .next t ∧
      Safety.wrote s rd (BitVec.ofNat 32 ((s.x rs).toNat + (s.x rt).toNat)) s.hi s.lo s.nextPc t) ∧
    (∃ t, exec (.subu rd rs rt) s = .next t ∧
      Safety.wrote s rd (BitVec.ofInt 32 ((s.x rs).toNat - (s.x rt).toNat)) s.hi s.lo s.nextPc t) ∧
    (∃ t, exec (.and rd rs rt) s = .next t ∧ Safety.wrote s rd (s.x rs &&& s.x rt) s.hi s.lo s.nextPc t) ∧
    (∃ t, exec (.or rd rs rt) s = .next t ∧ Safety.wrote s rd (s.x rs ||| s.x rt) s.hi s.lo s.nextPc t) ∧
    (∃ t, exec (.xor rd rs rt) s = .next t ∧ Safety.wrote s rd (s.x rs ^^^ s.x rt) s.hi s.lo s.nextPc t) ∧
    (∃ t, exec (.nor rd rs rt) s = .next t ∧ Safety.wrote s rd (~~~(s.x rs ||| s.x rt)) s.hi s.lo s.nextPc t) ∧
    (∃ t, exec (.slt rd rs rt) s = .next t ∧
      Safety.wrote s rd (if (s.x rs).toInt < (s.x rt).toInt then 1 else 0) s.hi s.lo s.nextPc t) ∧
    (∃ t, exec (.sltu rd rs rt) s = .next t ∧
      Safety.wrote s rd (if (s.x rs).toNat < (s.x rt).toNat then 1 else 0) s.hi s.lo s.nextPc t)

/-- ADDI, ADD and SUB: the signed result when it fits in 32 bits, code 12 with the destination unwritten when it does not
(41_alu_immediate R183; 44_alu_register R220, R222). -/
def Obligations.AddAndSubtractDeliverOrTrap : Prop :=
  (∀ w : Word,
    (w.extractLsb' 26 6 = 0x08 → decode w = .ok (.addi (w.extractLsb' 16 5) (w.extractLsb' 21 5) (w.extractLsb' 0 16))) ∧
    (w.extractLsb' 26 6 = 0x00 → w.extractLsb' 0 6 = 0x20 →
      decode w = .ok (.add (w.extractLsb' 11 5) (w.extractLsb' 21 5) (w.extractLsb' 16 5))) ∧
    (w.extractLsb' 26 6 = 0x00 → w.extractLsb' 0 6 = 0x22 →
      decode w = .ok (.sub (w.extractLsb' 11 5) (w.extractLsb' 21 5) (w.extractLsb' 16 5)))) ∧
  ∀ (s : State) (rd rs rt : Reg) (imm : Half),
    let gives (i : Instr) (r : Int) : Prop :=
      (-2 ^ 31 ≤ r ∧ r < 2 ^ 31 →
        ∃ t, exec i s = .next t ∧ Safety.wrote s rd (BitVec.ofInt 32 r) s.hi s.lo s.nextPc t) ∧
      (¬(-2 ^ 31 ≤ r ∧ r < 2 ^ 31) → ∃ t, exec i s = .next t ∧ Safety.tookException s 12 0 s.badVaddr t)
    gives (.addi rd rs imm) ((s.x rs).toInt + imm.toInt) ∧
      gives (.add rd rs rt) ((s.x rs).toInt + (s.x rt).toInt) ∧
      gives (.sub rd rs rt) ((s.x rs).toInt - (s.x rt).toInt)

/-! ## Multiply, divide, HI and LO -/

/-- MULT and MULTU: HI and LO hold the exact 64-bit product, signed or unsigned (45_muldiv R235, R236). -/
def Obligations.ProductsAreExact : Prop :=
  (∀ w : Word, w.extractLsb' 26 6 = 0x00 →
    (w.extractLsb' 0 6 = 0x18 → decode w = .ok (.mult (w.extractLsb' 21 5) (w.extractLsb' 16 5))) ∧
    (w.extractLsb' 0 6 = 0x19 → decode w = .ok (.multu (w.extractLsb' 21 5) (w.extractLsb' 16 5)))) ∧
  ∀ (s : State) (rs rt : Reg),
    (∃ t, exec (.mult rs rt) s = .next t ∧ Safety.drained s t.hi t.lo s.nextPc t ∧
      t.hi.toInt * 2 ^ 32 + t.lo.toNat = (s.x rs).toInt * (s.x rt).toInt) ∧
    (∃ t, exec (.multu rs rt) s = .next t ∧ Safety.drained s t.hi t.lo s.nextPc t ∧
      t.hi.toNat * 2 ^ 32 + t.lo.toNat = (s.x rs).toNat * (s.x rt).toNat)

/-- DIV and DIVU: quotient toward zero in LO, remainder in HI with the dividend's sign, and the defined corner cases
(45_muldiv R237, R238). -/
def Obligations.DivisionsWriteQuotientAndRemainder : Prop :=
  (∀ w : Word, w.extractLsb' 26 6 = 0x00 →
    (w.extractLsb' 0 6 = 0x1A → decode w = .ok (.div (w.extractLsb' 21 5) (w.extractLsb' 16 5))) ∧
    (w.extractLsb' 0 6 = 0x1B → decode w = .ok (.divu (w.extractLsb' 21 5) (w.extractLsb' 16 5)))) ∧
  ∀ (s : State) (rs rt : Reg),
    (∃ t, exec (.div rs rt) s = .next t ∧ Safety.drained s t.hi t.lo s.nextPc t ∧
      if s.x rt = 0 then t.hi = s.x rs ∧ t.lo = (if 0 ≤ (s.x rs).toInt then 0xFFFFFFFF else 1)
      else if s.x rs = 0x80000000 ∧ s.x rt = 0xFFFFFFFF then t.hi = 0 ∧ t.lo = 0x80000000
      else t.lo.toInt * (s.x rt).toInt + t.hi.toInt = (s.x rs).toInt ∧ t.hi.toInt.natAbs < (s.x rt).toInt.natAbs ∧
        (t.hi ≠ 0 → (t.hi.toInt < 0 ↔ (s.x rs).toInt < 0))) ∧
    (∃ t, exec (.divu rs rt) s = .next t ∧ Safety.drained s t.hi t.lo s.nextPc t ∧
      if s.x rt = 0 then t.hi = s.x rs ∧ t.lo = 0xFFFFFFFF
      else t.lo.toNat * (s.x rt).toNat + t.hi.toNat = (s.x rs).toNat ∧ t.hi.toNat < (s.x rt).toNat)

/-- MFHI, MFLO, MTHI, MTLO: the move, at once, and nothing else (45_muldiv R239 to R242). -/
def Obligations.HiLoMoves : Prop :=
  (∀ w : Word, w.extractLsb' 26 6 = 0x00 →
    (w.extractLsb' 0 6 = 0x10 → decode w = .ok (.mfhi (w.extractLsb' 11 5))) ∧
    (w.extractLsb' 0 6 = 0x12 → decode w = .ok (.mflo (w.extractLsb' 11 5))) ∧
    (w.extractLsb' 0 6 = 0x11 → decode w = .ok (.mthi (w.extractLsb' 21 5))) ∧
    (w.extractLsb' 0 6 = 0x13 → decode w = .ok (.mtlo (w.extractLsb' 21 5)))) ∧
  ∀ (s : State) (r : Reg),
    (∃ t, exec (.mfhi r) s = .next t ∧ Safety.wrote s r s.hi s.hi s.lo s.nextPc t) ∧
    (∃ t, exec (.mflo r) s = .next t ∧ Safety.wrote s r s.lo s.hi s.lo s.nextPc t) ∧
    (∃ t, exec (.mthi r) s = .next t ∧ Safety.drained s (s.x r) s.lo s.nextPc t) ∧
    (∃ t, exec (.mtlo r) s = .next t ∧ Safety.drained s s.hi (s.x r) s.nextPc t)

/-! ## Loads and stores -/

/-- LW, LH, LHU, LB, LBU at an address that is aligned for them: what `MemRead` gives, extended, goes through the load delay; a
read changes at most a device it has a side effect on (42_load_store R191 to R196). -/
def Obligations.AlignedLoadsAreDelayed : Prop :=
  (∀ w : Word,
    (w.extractLsb' 26 6 = 0x23 → decode w = .ok (.lw (w.extractLsb' 16 5) (w.extractLsb' 0 16) (w.extractLsb' 21 5))) ∧
    (w.extractLsb' 26 6 = 0x21 → decode w = .ok (.lh (w.extractLsb' 16 5) (w.extractLsb' 0 16) (w.extractLsb' 21 5))) ∧
    (w.extractLsb' 26 6 = 0x25 → decode w = .ok (.lhu (w.extractLsb' 16 5) (w.extractLsb' 0 16) (w.extractLsb' 21 5))) ∧
    (w.extractLsb' 26 6 = 0x20 → decode w = .ok (.lb (w.extractLsb' 16 5) (w.extractLsb' 0 16) (w.extractLsb' 21 5))) ∧
    (w.extractLsb' 26 6 = 0x24 → decode w = .ok (.lbu (w.extractLsb' 16 5) (w.extractLsb' 0 16) (w.extractLsb' 21 5)))) ∧
  ∀ (s : State) (rt base : Reg) (offset : Half),
    let a := s.x base + BitVec.ofInt 32 offset.toInt
    let after (n : Width) (v : Word) (t : State) : Prop :=
      Safety.loadDelayed s rt v t ∧ Safety.memorySame s t ∧
        t = { s with
          regs := t.regs, pending := { index := rt, value := v }, cd := (s.memRead a n).2.cd,
          gpu := (s.memRead a n).2.gpu, freeCount := (s.memRead a n).2.freeCount }
    (a.toNat % 4 = 0 → ∃ t, exec (.lw rt offset base) s = .next t ∧ after .word (s.memRead a .word).1 t) ∧
    (a.toNat % 2 = 0 →
      (∃ t, exec (.lh rt offset base) s = .next t ∧
        after .half (BitVec.ofInt 32 ((s.memRead a .half).1.setWidth 16).toInt) t) ∧
      (∃ t, exec (.lhu rt offset base) s = .next t ∧
        after .half (BitVec.ofNat 32 ((s.memRead a .half).1.toNat % 65536)) t)) ∧
    (∃ t, exec (.lb rt offset base) s = .next t ∧
      after .byte (BitVec.ofInt 32 ((s.memRead a .byte).1.setWidth 8).toInt) t) ∧
    (∃ t, exec (.lbu rt offset base) s = .next t ∧
      after .byte (BitVec.ofNat 32 ((s.memRead a .byte).1.toNat % 256)) t)

/-- SW, SH, SB into main RAM with the cache not isolated: the low bytes of the register, least significant first, at the
translated address; every other byte of memory, the registers but for the landing load, and every device keep their value
(42_load_store R197 to R199). -/
def Obligations.StoresToRamWriteTheirBytes : Prop :=
  (∀ w : Word,
    (w.extractLsb' 26 6 = 0x2B → decode w = .ok (.sw (w.extractLsb' 16 5) (w.extractLsb' 0 16) (w.extractLsb' 21 5))) ∧
    (w.extractLsb' 26 6 = 0x29 → decode w = .ok (.sh (w.extractLsb' 16 5) (w.extractLsb' 0 16) (w.extractLsb' 21 5))) ∧
    (w.extractLsb' 26 6 = 0x28 → decode w = .ok (.sb (w.extractLsb' 16 5) (w.extractLsb' 0 16) (w.extractLsb' 21 5)))) ∧
  ∀ (s : State) (rt base : Reg) (offset : Half) (k : Nat),
    let a := s.effectiveAddress base offset
    let after (n : Nat) (t : State) : Prop :=
      (∀ r, t.x r = Safety.landedReg s r) ∧
        (∀ j, t.ramByte j = if k ≤ j ∧ j < k + n then (s.x rt).extractLsb' (8 * (j - k)) 8 else s.ramByte j) ∧
        t = { s with regs := t.regs, pending := { index := 0, value := 0 }, ram := t.ram }
    Safety.storesCanonical s → s.sr.getLsbD 16 = false → Safety.ramAddress a k →
      (a.toNat % 4 = 0 → ∃ t, exec (.sw rt offset base) s = .next t ∧ after 4 t) ∧
      (a.toNat % 2 = 0 → ∃ t, exec (.sh rt offset base) s = .next t ∧ after 2 t) ∧
      (∃ t, exec (.sb rt offset base) s = .next t ∧ after 1 t)

/-- Stores that the interconnect drops, aligned for their width: any address while the cache is isolated, the BIOS ROM, an
address no device has (20_memory R95, R96, R113). SB and aligned SH complete at every address, with at most a device or the stores
changed, and are dropped on a DMA or GPU register (42_load_store R201; 20_memory R97). -/
def Obligations.DroppedAndNarrowStoresComplete : Prop :=
  ∀ (s : State) (rt base : Reg) (offset : Half),
    let a := s.effectiveAddress base offset
    let p := (Machine.translate a).toNat
    let narrow (i : Instr) : Prop :=
      ∃ t, exec i s = .next t ∧ (∀ r, t.x r = Safety.landedReg s r) ∧ t.pending = { index := 0, value := 0 } ∧
        Safety.devicesOnly s.land t ∧
        (0x1F801080 ≤ p ∧ p ≤ 0x1F8010FF ∨ 0x1F801810 ≤ p ∧ p ≤ 0x1F801817 → t = s.land)
    (s.sr.getLsbD 16 = true ∨ (0x1FC00000 ≤ p ∧ p ≤ 0x1FC7FFFF) ∨ deviceAt (Machine.translate a) = none →
      (a.toNat % 4 = 0 → ∃ t, exec (.sw rt offset base) s = .next t ∧ Safety.drained s s.hi s.lo s.nextPc t) ∧
      (a.toNat % 2 = 0 → ∃ t, exec (.sh rt offset base) s = .next t ∧ Safety.drained s s.hi s.lo s.nextPc t) ∧
      (∃ t, exec (.sb rt offset base) s = .next t ∧ Safety.drained s s.hi s.lo s.nextPc t)) ∧
    narrow (.sb rt offset base) ∧ (a.toNat % 2 = 0 → narrow (.sh rt offset base))

/-- LW, LH, LHU, SW and SH at a misaligned address: code 4 or 5, BadVAddr the virtual address, no access and no delayed load, the
cache isolated or not (20_memory R77; 42_load_store R191, R200). -/
def Obligations.MisalignedAccessesTrap : Prop :=
  ∀ (s : State) (rt base : Reg) (offset : Half),
    let a := s.x base + BitVec.ofInt 32 offset.toInt
    (a.toNat % 4 ≠ 0 →
      (∃ t, exec (.lw rt offset base) s = .next t ∧ Safety.tookException s 4 0 a t) ∧
      (∃ t, exec (.sw rt offset base) s = .next t ∧ Safety.tookException s 5 0 a t)) ∧
    (a.toNat % 2 ≠ 0 →
      (∃ t, exec (.lh rt offset base) s = .next t ∧ Safety.tookException s 4 0 a t) ∧
      (∃ t, exec (.lhu rt offset base) s = .next t ∧ Safety.tookException s 4 0 a t) ∧
      (∃ t, exec (.sh rt offset base) s = .next t ∧ Safety.tookException s 5 0 a t))

/-! ## Jumps and branches -/

/-- J, JAL, JR, JALR: `next_pc`, and the link, which is `next_pc` as it stood (46_jump_branch R250 to R253). -/
def Obligations.JumpsWriteNextPcAndLink : Prop :=
  (∀ w : Word,
    (w.extractLsb' 26 6 = 0x02 → decode w = .ok (.j (w.extractLsb' 0 26))) ∧
    (w.extractLsb' 26 6 = 0x03 → decode w = .ok (.jal (w.extractLsb' 0 26))) ∧
    (w.extractLsb' 26 6 = 0x00 → w.extractLsb' 0 6 = 0x08 → decode w = .ok (.jr (w.extractLsb' 21 5))) ∧
    (w.extractLsb' 26 6 = 0x00 → w.extractLsb' 0 6 = 0x09 →
      decode w = .ok (.jalr (w.extractLsb' 11 5) (w.extractLsb' 21 5)))) ∧
  ∀ (s : State) (target : BitVec 26) (rd rs : Reg),
    let region := (s.pc &&& 0xF0000000) ||| BitVec.ofNat 32 (4 * target.toNat)
    (∃ t, exec (.j target) s = .next t ∧ Safety.drained s s.hi s.lo region t) ∧
    (∃ t, exec (.jal target) s = .next t ∧ Safety.wrote s 31 s.nextPc s.hi s.lo region t) ∧
    (∃ t, exec (.jr rs) s = .next t ∧ Safety.drained s s.hi s.lo (s.x rs) t) ∧
    (∃ t, exec (.jalr rd rs) s = .next t ∧ Safety.wrote s rd s.nextPc s.hi s.lo (s.x rs) t)

/-- BEQ, BNE, BLEZ, BGTZ, BLTZ, BGEZ, BLTZAL, BGEZAL: the condition, the target, counted in words from the delay slot, and the
link of the last two, written whether or not the branch is taken, after the condition was read (46_jump_branch R255 to R263). -/
def Obligations.BranchesWriteNextPcWhenTaken : Prop :=
  (∀ w : Word,
    (w.extractLsb' 26 6 = 0x04 → decode w = .ok (.beq (w.extractLsb' 21 5) (w.extractLsb' 16 5) (w.extractLsb' 0 16))) ∧
    (w.extractLsb' 26 6 = 0x05 → decode w = .ok (.bne (w.extractLsb' 21 5) (w.extractLsb' 16 5) (w.extractLsb' 0 16))) ∧
    (w.extractLsb' 26 6 = 0x06 → decode w = .ok (.blez (w.extractLsb' 21 5) (w.extractLsb' 0 16))) ∧
    (w.extractLsb' 26 6 = 0x07 → decode w = .ok (.bgtz (w.extractLsb' 21 5) (w.extractLsb' 0 16))) ∧
    (w.extractLsb' 26 6 = 0x01 → w.extractLsb' 16 5 = 0x00 →
      decode w = .ok (.bltz (w.extractLsb' 21 5) (w.extractLsb' 0 16))) ∧
    (w.extractLsb' 26 6 = 0x01 → w.extractLsb' 16 5 = 0x01 →
      decode w = .ok (.bgez (w.extractLsb' 21 5) (w.extractLsb' 0 16))) ∧
    (w.extractLsb' 26 6 = 0x01 → w.extractLsb' 16 5 = 0x10 →
      decode w = .ok (.bltzal (w.extractLsb' 21 5) (w.extractLsb' 0 16))) ∧
    (w.extractLsb' 26 6 = 0x01 → w.extractLsb' 16 5 = 0x11 →
      decode w = .ok (.bgezal (w.extractLsb' 21 5) (w.extractLsb' 0 16)))) ∧
  ∀ (s : State) (rs rt : Reg) (offset : Half),
    let target := s.pc + BitVec.ofInt 32 (4 * offset.toInt)
    (∃ t, exec (.beq rs rt offset) s = .next t ∧
      Safety.drained s s.hi s.lo (if s.x rs = s.x rt then target else s.nextPc) t) ∧
    (∃ t, exec (.bne rs rt offset) s = .next t ∧
      Safety.drained s s.hi s.lo (if s.x rs = s.x rt then s.nextPc else target) t) ∧
    (∃ t, exec (.blez rs offset) s = .next t ∧
      Safety.drained s s.hi s.lo (if (s.x rs).toInt ≤ 0 then target else s.nextPc) t) ∧
    (∃ t, exec (.bgtz rs offset) s = .next t ∧
      Safety.drained s s.hi s.lo (if 0 < (s.x rs).toInt then target else s.nextPc) t) ∧
    (∃ t, exec (.bltz rs offset) s = .next t ∧
      Safety.drained s s.hi s.lo (if (s.x rs).toInt < 0 then target else s.nextPc) t) ∧
    (∃ t, exec (.bgez rs offset) s = .next t ∧
      Safety.drained s s.hi s.lo (if 0 ≤ (s.x rs).toInt then target else s.nextPc) t) ∧
    (∃ t, exec (.bltzal rs offset) s = .next t ∧
      Safety.wrote s 31 s.nextPc s.hi s.lo (if (s.x rs).toInt < 0 then target else s.nextPc) t) ∧
    (∃ t, exec (.bgezal rs offset) s = .next t ∧
      Safety.wrote s 31 s.nextPc s.hi s.lo (if 0 ≤ (s.x rs).toInt then target else s.nextPc) t)

/-! ## Exceptions by instruction, COP0, coprocessors -/

/-- SYSCALL and BREAK: codes 8 and 9, whatever the code field of the word (47_system_cop0 R270, R271). -/
def Obligations.SyscallAndBreakTakeTheirException : Prop :=
  (∀ w : Word, w.extractLsb' 26 6 = 0x00 →
    (w.extractLsb' 0 6 = 0x0C → decode w = .ok .syscall) ∧ (w.extractLsb' 0 6 = 0x0D → decode w = .ok .brk)) ∧
  ∀ s : State,
    (∃ t, exec .syscall s = .next t ∧ Safety.tookException s 8 0 s.badVaddr t) ∧
    (∃ t, exec .brk s = .next t ∧ Safety.tookException s 9 0 s.badVaddr t)

/-- MFC0: BadVAddr, SR, CAUSE and EPC under numbers 8, 12, 13, 14, through the load delay when MFC0_DELAYED; another number
delivers some word (47_system_cop0 R272). -/
def Obligations.MoveFromCop0 : Prop :=
  (∀ w : Word, w.extractLsb' 26 6 = 0x10 → w.extractLsb' 21 5 = 0x00 →
    decode w = .ok (.mfc0 (w.extractLsb' 16 5) (w.extractLsb' 11 5).toNat)) ∧
  ∀ (s : State) (rt : Reg) (n : Nat), n < 32 → ∃ (t : State) (v : Word), exec (.mfc0 rt n) s = .next t ∧
    (n = 8 → v = s.badVaddr) ∧ (n = 12 → v = s.sr) ∧ (n = 13 → v = s.cause) ∧ (n = 14 → v = s.epc) ∧
    (if s.params.mfc0Delayed then Safety.loadDelayed s rt v t
     else t.pending = { index := 0, value := 0 } ∧
      ∀ r, t.x r = if r = 0 then 0 else if r = rt then v else Safety.landedReg s r) ∧
    Safety.memorySame s t ∧ t = { s with regs := t.regs, pending := t.pending, freeCount := t.freeCount }

/-- MTC0: SR whole, CAUSE bits 9:8, nothing for any other number (47_system_cop0 R273). -/
def Obligations.MoveToCop0 : Prop :=
  (∀ w : Word, w.extractLsb' 26 6 = 0x10 → w.extractLsb' 21 5 = 0x04 →
    decode w = .ok (.mtc0 (w.extractLsb' 16 5) (w.extractLsb' 11 5).toNat)) ∧
  ∀ (s : State) (rt : Reg) (n : Nat), n < 32 → ∃ t, exec (.mtc0 rt n) s = .next t ∧
    Safety.wroteCop0 s (if n = 12 then s.x rt else s.sr)
      (if n = 13 then (s.cause &&& 0xFFFFFCFF) ||| (s.x rt &&& 0x00000300) else s.cause) t

/-- RFE: SR bits 3:0 take bits 5:2, bits 31:4 stay; no jump (47_system_cop0 R274). -/
def Obligations.ReturnFromExceptionPopsTheStack : Prop :=
  (∀ w : Word, w.extractLsb' 26 6 = 0x10 → w.extractLsb' 21 5 = 0x10 → w.extractLsb' 0 6 = 0x10 →
    decode w = .ok .rfe) ∧
  ∀ s : State, ∃ t, exec .rfe s = .next t ∧
    Safety.wroteCop0 s ((s.sr &&& 0xFFFFFFF0) ||| ((s.sr >>> 2) &&& 0x0000000F)) s.cause t

/-- COP1, COP3, LWC0, LWC1, LWC3, SWC0, SWC1, SWC3: code 11 with the coprocessor number `op[1:0]` in CAUSE bits 29:28, and
nothing else (30_encoding R142; 60_exceptions R297). -/
def Obligations.CoprocessorWordsAreUnusable : Prop :=
  ∀ s : State,
    (∃ t, exec .cop1 s = .next t ∧ Safety.tookException s 11 1 s.badVaddr t) ∧
    (∃ t, exec .cop3 s = .next t ∧ Safety.tookException s 11 3 s.badVaddr t) ∧
    (∃ t, exec .lwc0 s = .next t ∧ Safety.tookException s 11 0 s.badVaddr t) ∧
    (∃ t, exec .lwc1 s = .next t ∧ Safety.tookException s 11 1 s.badVaddr t) ∧
    (∃ t, exec .lwc3 s = .next t ∧ Safety.tookException s 11 3 s.badVaddr t) ∧
    (∃ t, exec .swc0 s = .next t ∧ Safety.tookException s 11 0 s.badVaddr t) ∧
    (∃ t, exec .swc1 s = .next t ∧ Safety.tookException s 11 1 s.badVaddr t) ∧
    (∃ t, exec .swc3 s = .next t ∧ Safety.tookException s 11 3 s.badVaddr t)

/-- The eight refused opcodes are refused by name, not executed and not taken as reserved instructions (30_encoding R141). -/
def Obligations.OmittedInstructionsAreRefused : Prop :=
  ∀ s : State,
    exec .xori s = .refused (.outsideRequiredSet "XORI") ∧ exec .cop2 s = .refused (.outsideRequiredSet "COP2") ∧
    exec .lwl s = .refused (.outsideRequiredSet "LWL") ∧ exec .lwr s = .refused (.outsideRequiredSet "LWR") ∧
    exec .swl s = .refused (.outsideRequiredSet "SWL") ∧ exec .swr s = .refused (.outsideRequiredSet "SWR") ∧
    exec .lwc2 s = .refused (.outsideRequiredSet "LWC2") ∧ exec .swc2 s = .refused (.outsideRequiredSet "SWC2")

/-! ## Every instruction -/

/-- An instruction that completes and is no store leaves every byte of RAM, BIOS and VRAM (42_load_store R191; the notes at the
head of files 41 and 43 to 47). -/
def Obligations.OnlyStoresWriteMemory : Prop :=
  ∀ (i : Instr) (s t : State), exec i s = .next t →
    (∀ rt offset base, i ≠ .sw rt offset base ∧ i ≠ .sh rt offset base ∧ i ≠ .sb rt offset base) →
    Safety.memorySame s t

/-- An instruction that completes takes one exception whole, or leaves EPC, BadVAddr, `current_pc` and `pc`, and then only MTC0
and RFE change SR or CAUSE; HI and LO change by MULT, MULTU, DIV, DIVU, MTHI and MTLO only, exceptions included (40_cpu_step R170;
10_state R25, R41 to R44). -/
def Obligations.InstructionsCompleteOrTakeOneException : Prop :=
  ∀ (i : Instr) (s t : State), exec i s = .next t →
    ((∃ code ce bad, Safety.tookException s code ce bad t) ∨
      (t.epc = s.epc ∧ t.badVaddr = s.badVaddr ∧ t.currentPc = s.currentPc ∧ t.pc = s.pc ∧
        (i ≠ .rfe → (∀ rt n, i ≠ .mtc0 rt n) → t.sr = s.sr ∧ t.cause = s.cause))) ∧
    ((∀ a b, i ≠ .mult a b ∧ i ≠ .multu a b ∧ i ≠ .div a b ∧ i ≠ .divu a b ∧ i ≠ .mthi a ∧ i ≠ .mtlo a) →
      t.hi = s.hi ∧ t.lo = s.lo)

/-! ## The step -/

/-- A step with no interrupt due and an aligned `pc` whose fetched word decodes to `i` is `exec i` on the state after the poll,
the latch, the fetch and the advance, then register 0 forced, then the step boundary (40_cpu_step R160). -/
def Obligations.StepRunsTheDecodedInstruction : Prop :=
  ∀ (s : State) (i : Instr),
    let f := s.poll.latch.memRead s.pc .word
    s.poll.interruptDue = false → s.pc.toNat % 4 = 0 → decode f.1 = .ok i →
      step s = andThen (exec i { f.2 with pc := s.nextPc, nextPc := s.nextPc + 4 })
        (fun t => .next t.forceZero.stepBoundary)

/-- With CAUSE bits 15:11 at 0, an interrupt is due exactly when IEc, SR bit 10 and the line of the interrupt controller are up,
whatever SR and CAUSE bits 9:8 hold (60_exceptions R314 to R316). In every state with the three up, a step takes it before it
fetches: victim `pc`, follower `next_pc`, the pending load and the registers kept (40_cpu_step R161; 60_exceptions R300, R301). -/
def Obligations.InterruptIsTakenBeforeTheFetch : Prop :=
  (∀ s : State, Safety.causeReserved s →
    (s.poll.interruptDue = true ↔ s.sr.getLsbD 0 = true ∧ s.sr.getLsbD 10 = true ∧ s.iStat &&& s.iMask ≠ 0)) ∧
  ∀ s : State, s.sr.getLsbD 0 = true → s.sr.getLsbD 10 = true → s.iStat &&& s.iMask ≠ 0 →
    ∃ t, s.cpuStep = .next t ∧ step s = .next t.stepBoundary ∧
      t.sr = (s.sr &&& 0xFFFFFFC0) ||| ((s.sr &&& 0x0000000F) <<< 2) ∧
      t.cause = (s.cause &&& 0x4FFFFF83) ||| 0x00000400 |||
        (if s.nextPc = s.pc + 4 then 0 else 0x80000000) ∧
      t.epc = (if s.nextPc = s.pc + 4 then s.pc else s.pc - 4) ∧
      t.pc = (if s.sr.getLsbD 22 then 0xBFC00180 else 0x80000080) ∧ t.nextPc = t.pc + 4 ∧
      t = { s with sr := t.sr, cause := t.cause, epc := t.epc, pc := t.pc, nextPc := t.nextPc }

/-- A `pc` that is no multiple of 4: code 4, BadVAddr and victim `pc`, follower `next_pc`, nothing fetched, the pending load and
the registers kept; CAUSE bit 10 is the poll's (40_cpu_step R162; 20_memory R78). -/
def Obligations.MisalignedFetchTraps : Prop :=
  ∀ s : State, s.poll.interruptDue = false → s.pc.toNat % 4 ≠ 0 →
    ∃ t, s.cpuStep = .next t ∧ step s = .next t.stepBoundary ∧
      t.sr = (s.sr &&& 0xFFFFFFC0) ||| ((s.sr &&& 0x0000000F) <<< 2) ∧
      t.cause = (s.cause &&& 0x4FFFFB83) ||| (if s.irqLine then 0x00000400 else 0) ||| 0x00000010 |||
        (if s.nextPc = s.pc + 4 then 0 else 0x80000000) ∧
      t.epc = (if s.nextPc = s.pc + 4 then s.pc else s.pc - 4) ∧ t.badVaddr = s.pc ∧
      t.pc = (if s.sr.getLsbD 22 then 0xBFC00180 else 0x80000080) ∧ t.nextPc = t.pc + 4 ∧
      t = { s with
        sr := t.sr, cause := t.cause, epc := t.epc, badVaddr := t.badVaddr, currentPc := s.pc, pc := t.pc,
        nextPc := t.nextPc }

/-- A word of no row whose `op` is neither 0x01 nor 0x10 takes code 10 and nothing else; one whose `op` is 0x01 or 0x10 is refused
and not executed (30_encoding R135, R139 to R141; 60_exceptions R296). -/
def Obligations.UnmatchedWordsTrapOrAreRefused : Prop :=
  ∀ (s : State) (w : Word) (e : DecodeError), decode w = .error e →
    (w.extractLsb' 26 6 ≠ 0x01 ∧ w.extractLsb' 26 6 ≠ 0x10 →
      ∃ t, s.execute w = .next t ∧ Safety.tookException s 10 0 s.badVaddr t) ∧
    (w.extractLsb' 26 6 = 0x01 → s.execute w = .refused .regimmSelector) ∧
    (w.extractLsb' 26 6 = 0x10 → s.execute w = .refused .cop0SubOpcode)

/-- A load's value is not read by the next instruction and is there for the one after (40_cpu_step R164 to R166): the first
instruction is any LW from an aligned word of RAM, the second an ADDU that reads the loaded register into another. Two aligned
loads of one register in a row with LOAD_DISCARD: the first value never lands (R167). -/
def Obligations.LoadDelaySlotReadsTheOldValue : Prop :=
  ∀ (s : State) (rt rd base : Reg) (offset : Half),
    (∀ k, Safety.ramAddress (s.effectiveAddress base offset) k → k % 4 = 0 → rt ≠ 0 → rd ≠ 0 → rd ≠ rt →
      s.pending.index ≠ rt →
      ∃ t u, exec (.lw rt offset base) s = .next t ∧ exec (.addu rd rt 0) t = .next u ∧
        t.x rt = s.x rt ∧ u.x rd = s.x rt ∧
          u.x rt = s.ramByte (k + 3) ++ s.ramByte (k + 2) ++ s.ramByte (k + 1) ++ s.ramByte k) ∧
    (s.params.loadDiscard = true → s.pending.index = rt → rt ≠ 0 → (s.effectiveAddress base offset).toNat % 4 = 0 →
      ∃ t, exec (.lw rt offset base) s = .next t ∧ t.x rt = s.x rt ∧ t.pending.index = rt ∧
        t.pending.value = (s.memRead (s.effectiveAddress base offset) .word).1)

/-! ## Exception entry -/

/-- Exception entry on any state, code, victim, follower and coprocessor number: what changes and what stays; RFE after an entry
gives the current and previous pairs of SR back, and a second entry keeps the first context's pair in bits 5:4 (60_exceptions
R300 to R303, R305, R306). -/
def Obligations.ExceptionEntry : Prop :=
  ∀ (s : State) (e : Exception) (victim follower : Word) (ce : BitVec 2),
    let t := s.enterException e victim follower ce
    let bd := decide (follower ≠ victim + 4)
    t.sr.extractLsb' 0 6 = s.sr.extractLsb' 0 4 ++ 0#2 ∧ t.sr.extractLsb' 6 26 = s.sr.extractLsb' 6 26 ∧
      t.cause.extractLsb' 2 5 = e.code ∧ t.cause.getLsbD 31 = bd ∧ t.cause.extractLsb' 28 2 = ce ∧
      t.cause &&& 0x4FFFFF83 = s.cause &&& 0x4FFFFF83 ∧
      t.epc = (if bd then victim - 4 else victim) ∧
      t.pc = (if s.sr.getLsbD 22 then 0xBFC00180 else 0x80000080) ∧ t.nextPc = t.pc + 4 ∧
      t = { s with sr := t.sr, cause := t.cause, epc := t.epc, pc := t.pc, nextPc := t.nextPc } ∧
      (popStatus t.sr).extractLsb' 0 4 = s.sr.extractLsb' 0 4 ∧
      (popStatus t.sr).extractLsb' 6 26 = s.sr.extractLsb' 6 26 ∧
      ∀ (e' : Exception) (victim' follower' : Word) (ce' : BitVec 2),
        (t.enterException e' victim' follower' ce').sr.extractLsb' 4 2 = s.sr.extractLsb' 0 2

/-! ## The interconnect -/

/-- Translation by region, and that applying it twice is applying it once (20_memory R72). -/
def Obligations.TranslationMasksByRegion : Prop :=
  ∀ a : Word,
    (Machine.translate a).toNat =
        (if a.toNat < 0x80000000 then a.toNat
         else if a.toNat < 0xA0000000 then a.toNat - 0x80000000
         else if a.toNat < 0xC0000000 then a.toNat - 0xA0000000 else a.toNat) ∧
      Machine.translate (Machine.translate a) = Machine.translate a

/-- Reads of main RAM of every width give the bytes at the translated address, least significant first, and have no side effect;
what an aligned word store put there is what reads of every width then see, and every other byte is as before (20_memory R75, R76,
R83). -/
def Obligations.RamReadsWhatWasWritten : Prop :=
  (∀ (s : State) (a : Word) (k : Nat), Safety.ramAddress a k →
    (s.memRead a .byte = ((s.ramByte k).setWidth 32, s)) ∧
    (k % 2 = 0 → s.memRead a .half = ((s.ramByte (k + 1) ++ s.ramByte k).setWidth 32, s)) ∧
    (k % 4 = 0 →
      s.memRead a .word = (s.ramByte (k + 3) ++ s.ramByte (k + 2) ++ s.ramByte (k + 1) ++ s.ramByte k, s))) ∧
  ∀ (s : State) (a v : Word) (k : Nat),
    Safety.storesCanonical s → s.sr.getLsbD 16 = false → Safety.ramAddress a k → k % 4 = 0 →
    ∃ t, s.memWrite a .word v = .next t ∧ (t.memRead a .word).1 = v ∧
      (t.memRead a .half).1 = BitVec.ofNat 32 (v.toNat % 65536) ∧
      (t.memRead (a + 2) .half).1 = BitVec.ofNat 32 (v.toNat / 65536) ∧
      (t.memRead a .byte).1 = BitVec.ofNat 32 (v.toNat % 256) ∧
      (t.memRead (a + 3) .byte).1 = BitVec.ofNat 32 (v.toNat / 16777216) ∧
      (∀ j, ¬(k ≤ j ∧ j < k + 4) → t.ramByte j = s.ramByte j)

/-- Ranges with a fixed answer: Expansion 1 reads all ones, the SPU and unmapped addresses read 0, the BIOS reads its image;
writes to all four are dropped (20_memory R84, R92, R95, R96). While SR bit 16 is 1 a store at any width and address is dropped,
and what a read answers does not depend on that bit (20_memory R113). -/
def Obligations.ConstantRangesAndIsolationDropStores : Prop :=
  ∀ (s : State) (a v : Word) (n : Width),
    let p := (Machine.translate a).toNat
    (0x1F000000 ≤ p ∧ p ≤ 0x1F7FFFFF →
      s.memRead a n = (BitVec.ofNat 32 (2 ^ (8 * n.bytes) - 1), s) ∧ s.memWrite a n v = .next s) ∧
    (0x1F801C00 ≤ p ∧ p ≤ 0x1F801E7F → s.memRead a n = (0, s) ∧ s.memWrite a n v = .next s) ∧
    (0x1FC00000 ≤ p ∧ p ≤ 0x1FC7FFFF →
      (s.memRead a n).2 = s ∧ s.memWrite a n v = .next s ∧
        (s.memRead a .byte).1 = (s.biosByte (p - 0x1FC00000)).setWidth 32) ∧
    (0x00200000 ≤ p ∧ p ≤ 0x1EFFFFFF ∨ 0x1FC80000 ≤ p ∧ p ≤ 0xFFFE012F ∨ 0xFFFE0134 ≤ p →
      s.memRead a n = (0, s) ∧ s.memWrite a n v = .next s) ∧
    (s.sr.getLsbD 16 = true → s.memWrite a n v = .next s) ∧
    ∀ sr, ({ s with sr := sr }.memRead a n).1 = (s.memRead a n).1

/-- I_STAT and I_MASK through the interconnect with the cache not isolated: a 1 acknowledges, the mask keeps 11 bits, both read
back zero-extended, at 16 and 32 bits; a request sets its bit whatever the mask (60_exceptions R311 to R313). -/
def Obligations.InterruptRegistersAcknowledgeAndMask : Prop :=
  ∀ (s : State) (v : Word) (n : Width) (line : Nat), s.sr.getLsbD 16 = false → n ≠ .byte → line ≤ 10 →
    s.memWrite 0x1F801070 n v = .next { s with iStat := s.iStat &&& ~~~(v.setWidth 11) } ∧
      s.memWrite 0x1F801074 n v = .next { s with iMask := v.setWidth 11 } ∧
      s.memRead 0x1F801070 n = (s.iStat.setWidth 32, s) ∧ s.memRead 0x1F801074 n = (s.iMask.setWidth 32, s) ∧
      s.memWrite 0x1F801072 .half v = .next s ∧ s.memRead 0x1F801072 .half = (0, s) ∧
      s.memWrite 0x1F801076 .half v = .next s ∧ s.memRead 0x1F801076 .half = (0, s) ∧
      let t := s.requestIrq line
      t = { s with iStat := t.iStat } ∧ t.iStat.getLsbD line = true ∧
        ∀ k, k ≠ line → t.iStat.getLsbD k = s.iStat.getLsbD k

/-! ## DMA -/

/-- A store to CHCR that leaves its channel inactive changes that register and nothing else (61_dma R344, R350). -/
def Obligations.InactiveChcrStoreOnlyWritesItsRegister : Prop :=
  ∀ (s : State) (n : Fin 7) (v : Word), s.sr.getLsbD 16 = false →
    ¬(v.getLsbD 24 = true ∧ (v.extractLsb' 9 2 ≠ 0 ∨ v.getLsbD 28 = true)) →
    ∃ t, s.memWrite (BitVec.ofNat 32 (0x1F801088 + 16 * n)) .word v = .next t ∧ Safety.memorySame s t ∧
      t = { s with dma := { s.dma with channels := t.dma.channels } } ∧
      t.dmaChannel n = { s.dmaChannel n with chcr := v } ∧ (∀ m, m ≠ n → t.dmaChannel m = s.dmaChannel m)

/-- A store to CHCR that activates a channel with no device end, or with a sync mode that has no meaning there, is refused
(61_dma R356 to R358). That it is refused before any word moves, and which of the two names stands where both reasons hold, are the
model's choice (log 19). -/
def Obligations.MeaninglessActivationsAreRefused : Prop :=
  ∀ (s : State) (n : Fin 7) (v : Word), s.sr.getLsbD 16 = false →
    v.getLsbD 24 = true → (v.extractLsb' 9 2 ≠ 0 ∨ v.getLsbD 28 = true) →
    let r := s.memWrite (BitVec.ofNat 32 (0x1F801088 + 16 * n)) .word v
    (n = 0 ∨ n = 1 ∨ n = 4 ∨ n = 5 → r = .refused (.dmaDeviceEnd n)) ∧
      (n = 3 ∨ n = 6 → v.getLsbD 0 = true → r = .refused (.dmaDeviceEnd n)) ∧
      (n = 3 ∨ n = 6 → v.getLsbD 0 = false → v.getLsbD 10 = true → r = .refused (.dmaSyncMode n)) ∧
      (n = 2 → v.getLsbD 10 = true → (v.getLsbD 0 = false ∨ v.getLsbD 9 = true) → r = .refused (.dmaSyncMode n))

/-- The OTC transfer, manual, downward, inside RAM: entry `i` holds the address of the entry before it and the last one the end
marker, no other byte of memory changes, and the channel is left inactive with its address and block registers as they were
(61_dma R353, R357, R360). -/
def Obligations.OtcTransferBuildsTheTable : Prop :=
  ∀ (s : State) (base count : Nat), s.sr.getLsbD 16 = false → Safety.storesCanonical s →
    base = ((s.dmaChannel 6).madr.toNat / 4) * 4 →
    count = (if (s.dmaChannel 6).bcr.toNat % 65536 = 0 then 65536 else (s.dmaChannel 6).bcr.toNat % 65536) →
    4 * (count - 1) ≤ base → base + 4 ≤ 0x200000 →
    ∃ t, s.memWrite 0x1F8010E8 .word 0x11000002 = .next t ∧
      (∀ i, i < count → t.dmaRamRead (BitVec.ofNat 32 (base - 4 * i)) =
        if i + 1 = count then 0x00FFFFFF else BitVec.ofNat 32 (base - 4 * (i + 1))) ∧
      (∀ j, ¬(base - 4 * (count - 1) ≤ j ∧ j < base + 4) → t.ramByte j = s.ramByte j) ∧
      t.dmaChannel 6 = { s.dmaChannel 6 with chcr := 0x00000002 } ∧ (∀ m, m ≠ 6 → t.dmaChannel m = s.dmaChannel m) ∧
      t = { s with ram := t.ram, dma := t.dma, iStat := t.iStat }

/-- A linked list that ends forwards to GP0 exactly the concatenation of its packet payloads, in order, and the transfer ends as
those writes end (61_dma R355). -/
def Obligations.LinkedListForwardsThePayloads : Prop :=
  ∀ (s : State) (a : Word) (packets : Nat) (words : List Word), packets ≤ packetLimit →
    Safety.packetChain s packets a words → dmaLinkedList packetLimit a s = Safety.gp0WriteAll words s

/-- DICR: a write takes its fields and clears flags, the end of a transfer clears its channel's enable and trigger and sets its
flag when its interrupt is enabled; after either the master flag follows its formula, and a rise requests line 3 (61_dma R346 to
R348, R360, R361). -/
def Obligations.DicrFollowsItsMasterFormula : Prop :=
  ∀ s : State,
    let follows (t : State) : Prop :=
      (t.dma.dicr.getLsbD 31 = true ↔ t.dma.dicr.getLsbD 15 = true ∨
        t.dma.dicr.getLsbD 23 = true ∧
          ∃ m, m < 7 ∧ t.dma.dicr.getLsbD (16 + m) = true ∧ t.dma.dicr.getLsbD (24 + m) = true) ∧
      t.iStat = (if s.dma.dicr.getLsbD 31 = false ∧ t.dma.dicr.getLsbD 31 = true then s.iStat ||| 0x008 else s.iStat)
    (∀ v : Word, s.sr.getLsbD 16 = false →
      ∃ t, s.memWrite 0x1F8010F4 .word v = .next t ∧
        (∀ i, i < 31 → t.dma.dicr.getLsbD i =
          if i < 6 ∨ i = 15 ∨ 16 ≤ i ∧ i < 24 then v.getLsbD i
          else if 24 ≤ i then s.dma.dicr.getLsbD i && !v.getLsbD i else s.dma.dicr.getLsbD i) ∧
        follows t ∧ t = { s with dma := { s.dma with dicr := t.dma.dicr }, iStat := t.iStat }) ∧
    ∀ n : Fin 7,
      let t := s.dmaComplete n
      t.dmaChannel n = { s.dmaChannel n with chcr := (s.dmaChannel n).chcr &&& 0xEEFFFFFF } ∧
        (∀ m, m ≠ n → t.dmaChannel m = s.dmaChannel m) ∧
        (∀ i, i < 31 → t.dma.dicr.getLsbD i =
          (s.dma.dicr.getLsbD i || (decide (i = 24 + (n : Nat)) && s.dma.dicr.getLsbD (16 + n)))) ∧
        follows t ∧ t = { s with dma := t.dma, iStat := t.iStat } ∧ t.dma.dpcr = s.dma.dpcr

/-! ## Timers -/

/-- Handing a timer `a` and then `b` CPU cycles gives the same state as handing it `a + b` (62_timers R388). -/
def Obligations.TimerAdvancesAdd : Prop :=
  ∀ (s : State) (i : Fin 3) (a b : Nat), (s.advanceTimer i a).advanceTimer i b = s.advanceTimer i (a + b)

/-- One tick: the wrap, the target, both sticky flags, the request and its latch in one-shot and repeat mode; the other timers and
everything else stay (62_timers R389, R393). -/
def Obligations.TimerTickCountsAndRequests : Prop :=
  ∀ (s : State) (i : Fin 3),
    let old := s.timer i
    let t := s.timerTick i
    let new := t.timer i
    let wraps := decide (old.counter = 0xFFFF)
    let counted := if wraps then 0 else old.counter + 1
    let meets := decide (counted = old.target)
    let fires := (meets && old.mode.getLsbD 4 || wraps && old.mode.getLsbD 5) && (old.mode.getLsbD 6 || !old.requestLatch)
    new.counter = (if meets && old.mode.getLsbD 3 then 0 else counted) ∧
      new.targetFlag = (old.targetFlag || meets) ∧ new.overflowFlag = (old.overflowFlag || wraps) ∧
      new.requestLatch = (old.requestLatch || fires) ∧
      t.iStat = (if fires then s.iStat ||| (1#11 <<< (4 + (i : Nat))) else s.iStat) ∧
      new.mode = old.mode ∧ new.target = old.target ∧ new.frac = old.frac ∧
      (∀ k, k ≠ i → t.timer k = s.timer k) ∧ t = { s with timers := t.timers, iStat := t.iStat }

/-- The mode register through the interconnect with the cache not isolated: a write takes bits 9:0 and clears both sticky flags
and the request latch, a read shows them live in bits 12:10 (62_timers R383, R384). -/
def Obligations.TimerModeRegister : Prop :=
  ∀ (s : State) (i : Fin 3) (v : Word), s.sr.getLsbD 16 = false →
    let a := BitVec.ofNat 32 (0x1F801104 + 16 * i)
    (∃ t, s.memWrite a .word v = .next t ∧
      t.timer i = { s.timer i with
        mode := v.extractLsb' 0 10, targetFlag := false, overflowFlag := false, requestLatch := false } ∧
      (∀ k, k ≠ i → t.timer k = s.timer k) ∧ t = { s with timers := t.timers }) ∧
    (s.memRead a .word).2 = s ∧ (s.memRead a .word).1.extractLsb' 0 10 = (s.timer i).mode ∧
      (s.memRead a .word).1.getLsbD 10 = !(s.timer i).requestLatch ∧
      (s.memRead a .word).1.getLsbD 11 = (s.timer i).targetFlag ∧
      (s.memRead a .word).1.getLsbD 12 = (s.timer i).overflowFlag ∧ (s.memRead a .word).1.extractLsb' 13 19 = 0

/-! ## CD-ROM -/

/-- Every command empties the parameter FIFO, cancels what was pending before it runs, and, but for Init, leaves INT3 flagged; a
byte that is no command ends in INT5 with error 0x40 (63_cdrom R428, R446). -/
def Obligations.CdCommandsAcknowledge : Prop :=
  ∀ (s : State) (c : Byte),
    let t := s.cdCommand c
    t.cd.paramFifo = [] ∧ (c ≠ 0x0A → t.cd.irqFlags.getLsbD 2 = true) ∧
      (s.cd.irqEnable.getLsbD 2 = true → t.iStat.getLsbD 2 = true) ∧
      (c ≠ 0x06 → c ≠ 0x15 → c ≠ 0x1A → t.cd.delay = 0 ∧ t.cd.pendingCmd = 0 ∧ t.cd.busy = false) ∧
      (c ∉ [0x01, 0x02, 0x06, 0x08, 0x09, 0x0A, 0x0E, 0x15, 0x19, 0x1A] →
        t.cd.responseFifo = [t.cd.stat, 0x40] ∧ t.cd.cdState = .error ∧ t.cd.irqFlags.getLsbD 4 = true)

/-- SetLoc: the target LBA from three BCD bytes, or INT5 with error 0x40 and the LBA kept when there are fewer (63_cdrom R436). -/
def Obligations.CdSetLocSetsTheTarget : Prop :=
  ∀ (s : State) (m sec f : Byte) (rest : List Byte),
    (s.cd.paramFifo = m :: sec :: f :: rest →
      let bcdOf (b : Byte) : Int := (b.toNat / 16 : Nat) * 10 + (b.toNat % 16 : Nat)
      let t := s.cdCommand 0x02
      t.cd.targetLba = BitVec.ofInt 32 ((bcdOf m * 60 + bcdOf sec) * 75 + bcdOf f - 150) ∧ t.cd.cdState = .idle ∧
        t.cd.responseFifo.length = 1 ∧ t.cd.irqFlags.getLsbD 1 = true) ∧
    (s.cd.paramFifo.length < 3 →
      let t := s.cdCommand 0x02
      t.cd.targetLba = s.cd.targetLba ∧ t.cd.cdState = .error ∧ t.cd.responseFifo = [t.cd.stat, 0x40] ∧
        t.cd.irqFlags.getLsbD 4 = true)

/-- GetID with no disc: pending at once, and when the delay has been handed over, eight bytes, INT5 and the Error state
(63_cdrom R445, R462). -/
def Obligations.CdGetIdWithoutADiscFails : Prop :=
  ∀ (s : State) (cycles : Nat), s.cd.discPresent = false → s.cd.playing = false → 1 ≤ s.params.cdDelayGetId →
    s.params.cdDelayGetId ≤ cycles →
    let t := s.cdCommand 0x1A
    let u := t.cdAdvance cycles
    t.cd.cdState = .getIdPending ∧ t.cd.busy = true ∧ t.cd.delay = s.params.cdDelayGetId ∧
      u.cd.responseFifo = [0x01, 0x80, 0, 0, 0, 0, 0, 0] ∧ u.cd.irqFlags = s.cd.irqFlags ||| 0x14#5 ∧
      u.cd.cdState = .error ∧ u.cd.busy = false ∧ u.cd.delay = 0 ∧ u.cd.pendingCmd = 0 ∧ u.cd.cdError = true

/-- ReadN, concluded with a sector: the user bytes in the buffer, INT1 and INT2, the LBA advanced; without one, error 0x20
(63_cdrom R438). -/
def Obligations.CdReadNDeliversOneSector : Prop :=
  ∀ (s : State) (cycles : Nat), s.cd.pendingCmd = 0x06 → 0 < s.cd.delay → s.cd.delay ≤ cycles →
    let u := s.cdAdvance cycles
    (∀ sector, s.cd.readTarget = some sector →
      u.cd.targetLba = s.cd.targetLba + 1 ∧ u.cd.dataPos = 0 ∧
        u.cd.dataLen = (if s.cd.sector2340 then 2340 else 2048) ∧
        (∀ k, k < u.cd.dataLen → u.cd.dataBuf[k]? = sector[(if s.cd.sector2340 then 12 else 24) + k]?) ∧
        u.cd.irqFlags = s.cd.irqFlags ||| 0x03#5 ∧ u.cd.cdState = .idle ∧ u.cd.busy = false ∧
        u.cd.responseFifo = [u.cd.stat]) ∧
    (s.cd.readTarget = none →
      u.cd.targetLba = s.cd.targetLba ∧ u.cd.cdState = .error ∧ u.cd.irqFlags = s.cd.irqFlags ||| 0x10#5 ∧
        u.cd.responseFifo.length = 2 ∧ u.cd.responseFifo[1]? = some 0x20) ∧
    u.cd.delay = 0 ∧ u.cd.pendingCmd = 0

/-- `load_disc` binds the source and resets the controller, and touches nothing else (63_cdrom R460, R461). -/
def Obligations.LoadDiscResetsTheController : Prop :=
  ∀ (s : State) (source : SectorSource),
    let t := s.loadDisc source
    t.cd.source = some source ∧ t.cd.discPresent = source.present ∧
      { t.cd with source := none, discPresent := false } = Cdrom.reset ∧ t = { s with cd := t.cd } ∧
      t.cd.hostStatus = 0x18

/-! ## GPU -/

/-- GPUSTAT, field by field (64_gpu R525), and that bits 26 and 27 are never both 1 (R529). -/
def Obligations.GpuStatShowsTheFields : Prop :=
  ∀ g : Gpu,
    g.stat.extractLsb' 0 4 = g.pageBaseX ∧ g.stat.extractLsb' 4 1 = g.pageBaseY ∧
      g.stat.extractLsb' 5 2 = g.semiTransparency ∧ g.stat.extractLsb' 7 2 = g.textureDepth ∧
      g.stat.extractLsb' 9 1 = g.dithering ∧ g.stat.extractLsb' 10 1 = g.drawToDisplay ∧
      g.stat.extractLsb' 11 1 = g.forceSetMask ∧ g.stat.extractLsb' 12 1 = g.preserveMasked ∧
      g.stat.extractLsb' 13 1 = g.field ∧ g.stat.getLsbD 14 = false ∧ g.stat.extractLsb' 15 1 = g.textureDisable ∧
      g.stat.extractLsb' 16 2 = g.hres1 ∧ g.stat.extractLsb' 18 1 = g.hres2 ∧ g.stat.extractLsb' 19 1 = g.vres ∧
      g.stat.extractLsb' 20 1 = g.vmode ∧ g.stat.extractLsb' 21 1 = g.displayDepth ∧
      g.stat.extractLsb' 22 1 = g.interlaced ∧ g.stat.extractLsb' 23 1 = g.displayDisabled ∧
      g.stat.extractLsb' 24 1 = g.gpuIrq ∧ g.stat.getLsbD 25 = false ∧
      (g.stat.getLsbD 26 = true ↔ g.gp0Mode = .command ∧ g.cmdRemaining = 0) ∧
      (g.stat.getLsbD 27 = true ↔ g.gp0Mode = .vramToCpu) ∧ g.stat.getLsbD 28 = true ∧
      g.stat.extractLsb' 29 2 = g.dmaDirection ∧ g.stat.getLsbD 31 = false ∧
      ¬(g.stat.getLsbD 26 = true ∧ g.stat.getLsbD 27 = true)

/-- GP1 0x00 from every state: the GPU's fields at their reset values, GPUSTAT 0x1480_0000, VRAM and the trace as before
(64_gpu R516, R530). -/
def Obligations.Gp1ResetRestoresTheGpu : Prop :=
  ∀ (s : State) (v : Word), s.sr.getLsbD 16 = false → v.extractLsb' 24 8 = 0x00 →
    ∃ t, s.memWrite 0x1F801814 .word v = .next t ∧ t = { s with gpu := Gpu.reset } ∧
      t.memRead 0x1F801814 .word = (0x14800000, t) ∧ t.gpu.gp0Mode = .command ∧ t.gpu.cmdRemaining = 0 ∧
      Safety.memorySame s t

/-- The four drawing commands sent whole to an idle GP0: a triangle, or a quad as triangles (0, 1, 2) and (0, 2, 3), with signed
positions as written; no VRAM and no other GPU register changes (64_gpu R485 to R488, R497). -/
def Obligations.DrawingCommandsEmitTriangles : Prop :=
  ∀ (s : State) (w0 w1 w2 w3 w4 w5 w6 w7 w8 : Word), s.gpu.gp0Mode = .command → s.gpu.cmdRemaining = 0 →
    let p (w : Word) : Vertex := { x := (w.extractLsb' 0 16).toInt, y := (w.extractLsb' 16 16).toInt }
    let c (w : Word) : Colour := { r := w.extractLsb' 0 8, g := w.extractLsb' 8 8, b := w.extractLsb' 16 8 }
    let after (t : State) (events : List Event) : Prop :=
      t = { s with
        trace := s.trace ++ events
        gpu := { s.gpu with cmdBuf := t.gpu.cmdBuf, cmdOpcode := w0.extractLsb' 24 8 } }
    (w0.extractLsb' 24 8 = 0x30 → ∃ t, Safety.gp0WriteAll [w0, w1, w2, w3, w4, w5] s = .next t ∧
      after t [.triangle (p w1) (p w3) (p w5) (c w0) (c w2) (c w4)]) ∧
    (w0.extractLsb' 24 8 = 0x38 → ∃ t, Safety.gp0WriteAll [w0, w1, w2, w3, w4, w5, w6, w7] s = .next t ∧
      after t [.triangle (p w1) (p w3) (p w5) (c w0) (c w2) (c w4), .triangle (p w1) (p w5) (p w7) (c w0) (c w4) (c w6)]) ∧
    (w0.extractLsb' 24 8 = 0x28 → ∃ t, Safety.gp0WriteAll [w0, w1, w2, w3, w4] s = .next t ∧
      after t [.triangle (p w1) (p w2) (p w3) (c w0) (c w0) (c w0), .triangle (p w1) (p w3) (p w4) (c w0) (c w0) (c w0)]) ∧
    (w0.extractLsb' 24 8 = 0x2C → ∃ t, Safety.gp0WriteAll [w0, w1, w2, w3, w4, w5, w6, w7, w8] s = .next t ∧
      after t [.triangle (p w1) (p w3) (p w5) (c w0) (c w0) (c w0), .triangle (p w1) (p w5) (p w7) (c w0) (c w0) (c w0)])

/-- The three model faults of the GPU ports: a GP0 first word and a GP1 word with another opcode, and a GP0 word in VRAMToCPU mode
(64_gpu R471, R473, R515). -/
def Obligations.UnknownGpuWordsFault : Prop :=
  ∀ (s : State) (v : Word), s.sr.getLsbD 16 = false →
    (s.gpu.gp0Mode = .command → s.gpu.cmdRemaining = 0 →
      v.extractLsb' 24 8 ∉ [0x00, 0x01, 0x02, 0x28, 0x2C, 0x30, 0x38, 0xA0, 0xC0, 0xE1, 0xE2, 0xE3, 0xE4, 0xE5, 0xE6] →
      s.memWrite 0x1F801810 .word v = .fault .gp0UnknownOpcode) ∧
    (s.gpu.gp0Mode = .vramToCpu → s.memWrite 0x1F801810 .word v = .fault .gp0WriteDuringRead) ∧
    (8 < (v.extractLsb' 24 8).toNat → s.memWrite 0x1F801814 .word v = .fault .gp1UnknownOpcode)

/-- An image loaded into VRAM and read back at once comes back word for word, the pad half of an odd count as 0, and the GPU is
idle again (64_gpu R514). -/
def Obligations.ImageReadBackReturnsTheLoadedPixels : Prop :=
  ∀ (s : State) (w h : Nat) (origin : Word) (words : List Word),
    Safety.storesCanonical s → s.gpu.gp0Mode = .command → s.gpu.cmdRemaining = 0 → 1 ≤ w → w ≤ 1024 → 1 ≤ h → h ≤ 512 →
    words.length = (w * h + 1) / 2 →
    let size : Word := BitVec.ofNat 32 (65536 * h + w)
    ∃ t u, Safety.gp0WriteAll (0xA0000000 :: origin :: size :: words) s = .next t ∧
      Safety.gp0WriteAll [0xC0000000, origin, size] t = .next u ∧
      (Safety.gpuReadAll words.length u).1 =
        (if w * h % 2 = 0 then words
         else words.dropLast ++ (words.getLast?.map (fun d => d &&& 0x0000FFFF)).toList) ∧
      (Safety.gpuReadAll words.length u).2.gpu.gp0Mode = .command ∧ t.gpu.gp0Mode = .command

/-! ## The run loop, reset, and what every step keeps -/

/-- The boundary after a CPU step with no environment action scripted: one step more, the device advance exactly when the count is
a multiple of DEV_QUANTUM, `Present` exactly at a frame boundary, and no CPU state touched (70_reset_and_hazards R560, R563). -/
def Obligations.StepBoundaryAdvancesDevices : Prop :=
  ∀ s : State, s.inputs = [] →
    let n := s.stepCount + 1
    let moved := if n % s.params.devQuantum = 0 then s.advanceDevices s.params.devQuantum else s
    s.stepBoundary = { moved with
      stepCount := n, trace := s.trace ++ (if n % 564480 = 0 then [Event.present] else []) } ∧
    Safety.devicesOnly s moved ∧ Safety.memorySame s moved

/-- The state after reset, where the spec gives a value, and an unspecified byte of RAM, VRAM and BIOS left to the free values
(10_state R60; 64_gpu R527). -/
def Obligations.ResetGivesTheSpecValues : Prop :=
  let s := State.reset
  s.pc = 0xBFC00000 ∧ s.nextPc = 0xBFC00004 ∧ s.x 0 = 0 ∧ s.pending = { index := 0, value := 0 } ∧ s.sr = 0x00400000 ∧
    s.cause = 0 ∧ s.iStat = 0 ∧ s.iMask = 0 ∧ (∀ k, s.biosByte k = Config.biosImage k) ∧
    (∀ n : Fin 7, s.dmaChannel n = { madr := 0, bcr := 0, chcr := 0 }) ∧ s.dma.dpcr = 0x07654321 ∧ s.dma.dicr = 0 ∧
    (∀ i : Fin 3, s.timer i =
      { counter := 0, mode := 0, target := 0, targetFlag := false, overflowFlag := false, requestLatch := false, frac := 0 }) ∧
    s.cd = Cdrom.reset ∧ s.cd.hostStatus = 0x18 ∧ s.cd.discPresent = false ∧ s.cd.cdState = .idle ∧
    s.gpu = Gpu.reset ∧ s.gpu.stat = 0x14800000 ∧ s.gpu.dispHStart = 0x200 ∧ s.gpu.dispHEnd = 0xC00 ∧
    s.gpu.dispVStart = 0x010 ∧ s.gpu.dispVEnd = 0x100 ∧ s.stepCount = 0

/-- The state after reset meets every invariant of `Safety`. -/
def Obligations.ResetMeetsTheInvariants : Prop :=
  Safety.zeroRegister State.reset ∧ Safety.causeReserved State.reset ∧ Safety.causeCode State.reset ∧
    Safety.storesCanonical State.reset ∧ Safety.dicrReserved State.reset ∧ Safety.dicrMasterFollows State.reset ∧
    Safety.noChannelActive State.reset ∧ Safety.timerFractions State.reset ∧ Safety.cdBounds State.reset.cd ∧
    Safety.gpuBounds State.reset.gpu ∧ State.reset.params.wellFormed = true

/-- Every step keeps register 0 at 0, CAUSE's reserved bits at 0 and its code one of the eight (10_state R21, R42; 60_exceptions
R291). -/
def Obligations.StepKeepsTheCpuInvariant : Prop :=
  ∀ s t : State, Safety.zeroRegister s → Safety.causeReserved s → Safety.causeCode s → step s = .next t →
    Safety.zeroRegister t ∧ Safety.causeReserved t ∧ Safety.causeCode t

/-- Every step keeps RAM, BIOS and VRAM in canonical form, and never writes the BIOS (10_state R47 to R49; 20_memory R96). -/
def Obligations.StepKeepsTheStoresCanonical : Prop :=
  ∀ s t : State, Safety.storesCanonical s → step s = .next t →
    Safety.storesCanonical t ∧ ∀ k, t.biosByte k = s.biosByte k

/-- Every step leaves no DMA channel active, DICR's reserved bits 0 and its master flag equal to its formula (10_state R50; 61_dma
R346, R348, R350). -/
def Obligations.StepKeepsTheDmaInvariant : Prop :=
  ∀ s t : State, Safety.noChannelActive s → Safety.dicrReserved s → Safety.dicrMasterFollows s → step s = .next t →
    Safety.noChannelActive t ∧ Safety.dicrReserved t ∧ Safety.dicrMasterFollows t

/-- Every step keeps the timers' fractions below 1, the CD-ROM's and the GPU's bounds (62_timers R388; 63_cdrom R450, R455; 64_gpu
R529), for parameters the spec allows, and changes no parameter. -/
def Obligations.StepKeepsTheDeviceInvariant : Prop :=
  ∀ s t : State, s.params.wellFormed = true → Safety.timerFractions s → Safety.cdBounds s.cd → Safety.gpuBounds s.gpu →
    step s = .next t →
    t.params = s.params ∧ Safety.timerFractions t ∧ Safety.cdBounds t.cd ∧ Safety.gpuBounds t.gpu

/-- A run stops at the first state where the end that `runEnd` gives has come, or at its cut-off, and at nothing else: no step is a
last one; a run of a number of steps or frames stops at that count, one to an address with `pc` there; a run of `m + k` steps is one of
`m` and then one of `k` (40_cpu_step R174; 70_reset_and_hazards R560, R563). That these three are the ends is the
model's choice (log 25). -/
def Obligations.RunsEndWhereTheParameterSays : Prop :=
  (∀ (s t : State) (k : Nat), run k s = .next t →
    t.params = s.params ∧ s.stepCount ≤ t.stepCount ∧ t.stepCount ≤ s.stepCount + k ∧
      (t.stepCount < s.stepCount + k → t.runEnded = true) ∧
      (∀ n, s.params.runEnd = .steps n → s.stepCount ≤ n → n ≤ s.stepCount + k → t.stepCount = n) ∧
      (∀ n, s.params.runEnd = .frames n → s.stepCount ≤ n * 564480 → n * 564480 ≤ s.stepCount + k →
        t.stepCount = n * 564480) ∧
      (∀ a, s.params.runEnd = .pcReaches a → t.stepCount < s.stepCount + k → t.pc = a)) ∧
  ∀ (s : State) (m k : Nat),
    (s.runEnded = true → run k s = .next s) ∧ run (m + k) s = andThen (run m s) (run k)
end

