-- ==== Sys2Proof/Laws/Bits.lean ====
section
/-! SUPPORT. What replacing a bit field does, bit by bit. -/

namespace Sys2Proof
namespace Machine

theorem getLsbD_fieldMask (lo len i : Nat) (h : lo + len ≤ 32) :
    (fieldMask lo len).getLsbD i = (decide (lo ≤ i) && decide (i < lo + len)) := by
  rw [Bool.eq_iff_iff]
  simp only [fieldMask, BitVec.getLsbD_shiftLeft, BitVec.getLsbD_setWidth, BitVec.getLsbD_allOnes, Bool.and_eq_true,
    Bool.not_eq_true', decide_eq_true_eq, decide_eq_false_iff_not]
  omega

/-- A bit of a word whose field `lo + len - 1 : lo` was replaced. -/
theorem getLsbD_setField (w : Word) (lo : Nat) {len : Nat} (v : BitVec len) (h : lo + len ≤ 32) (i : Nat) :
    (setField w lo v).getLsbD i = if lo ≤ i ∧ i < lo + len then v.getLsbD (i - lo) else w.getLsbD i := by
  by_cases h3 : i < 32
  · simp only [setField, BitVec.getLsbD_or, BitVec.getLsbD_and, BitVec.getLsbD_not, getLsbD_fieldMask _ _ _ h,
      BitVec.getLsbD_shiftLeft, BitVec.getLsbD_setWidth]
    by_cases h1 : lo ≤ i ∧ i < lo + len
    · rw [if_pos h1]
      have e1 : ¬ i < lo := by omega
      have e2 : i - lo < 32 := by omega
      simp [h1.1, h1.2, h3, e1, e2]
    · rw [if_neg h1]
      by_cases h2 : lo ≤ i
      · have e0 : ¬ i < lo + len := by omega
        have e1 : v.getLsbD (i - lo) = false := BitVec.getLsbD_of_ge _ _ (by omega)
        simp [h2, h3, e0, e1]
      · simp [h2, h3, Nat.lt_of_not_le h2]
  · rw [BitVec.getLsbD_of_ge _ _ (by omega), if_neg (by omega), BitVec.getLsbD_of_ge _ _ (by omega)]

/-- A bit of a word of which one bit was replaced. -/
theorem getLsbD_setBit (w : Word) (k : Nat) (b : Bool) (h : k < 32) (i : Nat) :
    (setBit w k b).getLsbD i = if i = k then b else w.getLsbD i := by
  rw [setBit, getLsbD_setField _ _ _ (by omega)]
  by_cases hi : i = k
  · subst hi; simp
  · rw [if_neg (by omega), if_neg hi]

/-- A chain of outcomes that answers a next state went through one. -/
theorem andThen_eq_next {r : Result} {f : State → Result} {t : State} (h : andThen r f = .next t) :
    ∃ s, r = .next s ∧ f s = .next t := by
  cases r with
  | next s => exact ⟨s, rfl, h⟩
  | fault e => cases h
  | refused e => cases h

@[simp] theorem andThen_next (s : State) (f : State → Result) : andThen (.next s) f = f s := rfl

end Machine
end Sys2Proof
end

