-- ==== Sys2Proof/Laws/State.lean ====
section
/-! SUPPORT. One lemma per field for each update of the state, so that no later proof unfolds a record update; and, for the
register updates, what they leave. -/

namespace Sys2Proof
namespace Machine

/-! ## `State.setCd` -/

@[simp] theorem State.setCd_regs (s : State) (c : Cdrom) : (s.setCd c).regs = s.regs := rfl
@[simp] theorem State.setCd_pc (s : State) (c : Cdrom) : (s.setCd c).pc = s.pc := rfl
@[simp] theorem State.setCd_nextPc (s : State) (c : Cdrom) : (s.setCd c).nextPc = s.nextPc := rfl
@[simp] theorem State.setCd_currentPc (s : State) (c : Cdrom) : (s.setCd c).currentPc = s.currentPc := rfl
@[simp] theorem State.setCd_hi (s : State) (c : Cdrom) : (s.setCd c).hi = s.hi := rfl
@[simp] theorem State.setCd_lo (s : State) (c : Cdrom) : (s.setCd c).lo = s.lo := rfl
@[simp] theorem State.setCd_pending (s : State) (c : Cdrom) : (s.setCd c).pending = s.pending := rfl
@[simp] theorem State.setCd_sr (s : State) (c : Cdrom) : (s.setCd c).sr = s.sr := rfl
@[simp] theorem State.setCd_cause (s : State) (c : Cdrom) : (s.setCd c).cause = s.cause := rfl
@[simp] theorem State.setCd_epc (s : State) (c : Cdrom) : (s.setCd c).epc = s.epc := rfl
@[simp] theorem State.setCd_badVaddr (s : State) (c : Cdrom) : (s.setCd c).badVaddr = s.badVaddr := rfl
@[simp] theorem State.setCd_iStat (s : State) (c : Cdrom) : (s.setCd c).iStat = s.iStat := rfl
@[simp] theorem State.setCd_iMask (s : State) (c : Cdrom) : (s.setCd c).iMask = s.iMask := rfl
@[simp] theorem State.setCd_ram (s : State) (c : Cdrom) : (s.setCd c).ram = s.ram := rfl
@[simp] theorem State.setCd_bios (s : State) (c : Cdrom) : (s.setCd c).bios = s.bios := rfl
@[simp] theorem State.setCd_vram (s : State) (c : Cdrom) : (s.setCd c).vram = s.vram := rfl
@[simp] theorem State.setCd_dma (s : State) (c : Cdrom) : (s.setCd c).dma = s.dma := rfl
@[simp] theorem State.setCd_timers (s : State) (c : Cdrom) : (s.setCd c).timers = s.timers := rfl
@[simp] theorem State.setCd_cd (s : State) (c : Cdrom) : (s.setCd c).cd = c := rfl
@[simp] theorem State.setCd_gpu (s : State) (c : Cdrom) : (s.setCd c).gpu = s.gpu := rfl
@[simp] theorem State.setCd_trace (s : State) (c : Cdrom) : (s.setCd c).trace = s.trace := rfl
@[simp] theorem State.setCd_stepCount (s : State) (c : Cdrom) : (s.setCd c).stepCount = s.stepCount := rfl
@[simp] theorem State.setCd_freeCount (s : State) (c : Cdrom) : (s.setCd c).freeCount = s.freeCount := rfl
@[simp] theorem State.setCd_params (s : State) (c : Cdrom) : (s.setCd c).params = s.params := rfl
@[simp] theorem State.setCd_inputs (s : State) (c : Cdrom) : (s.setCd c).inputs = s.inputs := rfl

/-! ## `State.setGpu` -/

@[simp] theorem State.setGpu_regs (s : State) (g : Gpu) : (s.setGpu g).regs = s.regs := rfl
@[simp] theorem State.setGpu_pc (s : State) (g : Gpu) : (s.setGpu g).pc = s.pc := rfl
@[simp] theorem State.setGpu_nextPc (s : State) (g : Gpu) : (s.setGpu g).nextPc = s.nextPc := rfl
@[simp] theorem State.setGpu_currentPc (s : State) (g : Gpu) : (s.setGpu g).currentPc = s.currentPc := rfl
@[simp] theorem State.setGpu_hi (s : State) (g : Gpu) : (s.setGpu g).hi = s.hi := rfl
@[simp] theorem State.setGpu_lo (s : State) (g : Gpu) : (s.setGpu g).lo = s.lo := rfl
@[simp] theorem State.setGpu_pending (s : State) (g : Gpu) : (s.setGpu g).pending = s.pending := rfl
@[simp] theorem State.setGpu_sr (s : State) (g : Gpu) : (s.setGpu g).sr = s.sr := rfl
@[simp] theorem State.setGpu_cause (s : State) (g : Gpu) : (s.setGpu g).cause = s.cause := rfl
@[simp] theorem State.setGpu_epc (s : State) (g : Gpu) : (s.setGpu g).epc = s.epc := rfl
@[simp] theorem State.setGpu_badVaddr (s : State) (g : Gpu) : (s.setGpu g).badVaddr = s.badVaddr := rfl
@[simp] theorem State.setGpu_iStat (s : State) (g : Gpu) : (s.setGpu g).iStat = s.iStat := rfl
@[simp] theorem State.setGpu_iMask (s : State) (g : Gpu) : (s.setGpu g).iMask = s.iMask := rfl
@[simp] theorem State.setGpu_ram (s : State) (g : Gpu) : (s.setGpu g).ram = s.ram := rfl
@[simp] theorem State.setGpu_bios (s : State) (g : Gpu) : (s.setGpu g).bios = s.bios := rfl
@[simp] theorem State.setGpu_vram (s : State) (g : Gpu) : (s.setGpu g).vram = s.vram := rfl
@[simp] theorem State.setGpu_dma (s : State) (g : Gpu) : (s.setGpu g).dma = s.dma := rfl
@[simp] theorem State.setGpu_timers (s : State) (g : Gpu) : (s.setGpu g).timers = s.timers := rfl
@[simp] theorem State.setGpu_cd (s : State) (g : Gpu) : (s.setGpu g).cd = s.cd := rfl
@[simp] theorem State.setGpu_gpu (s : State) (g : Gpu) : (s.setGpu g).gpu = g := rfl
@[simp] theorem State.setGpu_trace (s : State) (g : Gpu) : (s.setGpu g).trace = s.trace := rfl
@[simp] theorem State.setGpu_stepCount (s : State) (g : Gpu) : (s.setGpu g).stepCount = s.stepCount := rfl
@[simp] theorem State.setGpu_freeCount (s : State) (g : Gpu) : (s.setGpu g).freeCount = s.freeCount := rfl
@[simp] theorem State.setGpu_params (s : State) (g : Gpu) : (s.setGpu g).params = s.params := rfl
@[simp] theorem State.setGpu_inputs (s : State) (g : Gpu) : (s.setGpu g).inputs = s.inputs := rfl

/-! ## `State.setTimer` -/

@[simp] theorem State.setTimer_regs (s : State) (i : Fin 3) (u : Timer) : (s.setTimer i u).regs = s.regs := rfl
@[simp] theorem State.setTimer_pc (s : State) (i : Fin 3) (u : Timer) : (s.setTimer i u).pc = s.pc := rfl
@[simp] theorem State.setTimer_nextPc (s : State) (i : Fin 3) (u : Timer) : (s.setTimer i u).nextPc = s.nextPc := rfl
@[simp] theorem State.setTimer_currentPc (s : State) (i : Fin 3) (u : Timer) : (s.setTimer i u).currentPc = s.currentPc := rfl
@[simp] theorem State.setTimer_hi (s : State) (i : Fin 3) (u : Timer) : (s.setTimer i u).hi = s.hi := rfl
@[simp] theorem State.setTimer_lo (s : State) (i : Fin 3) (u : Timer) : (s.setTimer i u).lo = s.lo := rfl
@[simp] theorem State.setTimer_pending (s : State) (i : Fin 3) (u : Timer) : (s.setTimer i u).pending = s.pending := rfl
@[simp] theorem State.setTimer_sr (s : State) (i : Fin 3) (u : Timer) : (s.setTimer i u).sr = s.sr := rfl
@[simp] theorem State.setTimer_cause (s : State) (i : Fin 3) (u : Timer) : (s.setTimer i u).cause = s.cause := rfl
@[simp] theorem State.setTimer_epc (s : State) (i : Fin 3) (u : Timer) : (s.setTimer i u).epc = s.epc := rfl
@[simp] theorem State.setTimer_badVaddr (s : State) (i : Fin 3) (u : Timer) : (s.setTimer i u).badVaddr = s.badVaddr := rfl
@[simp] theorem State.setTimer_iStat (s : State) (i : Fin 3) (u : Timer) : (s.setTimer i u).iStat = s.iStat := rfl
@[simp] theorem State.setTimer_iMask (s : State) (i : Fin 3) (u : Timer) : (s.setTimer i u).iMask = s.iMask := rfl
@[simp] theorem State.setTimer_ram (s : State) (i : Fin 3) (u : Timer) : (s.setTimer i u).ram = s.ram := rfl
@[simp] theorem State.setTimer_bios (s : State) (i : Fin 3) (u : Timer) : (s.setTimer i u).bios = s.bios := rfl
@[simp] theorem State.setTimer_vram (s : State) (i : Fin 3) (u : Timer) : (s.setTimer i u).vram = s.vram := rfl
@[simp] theorem State.setTimer_dma (s : State) (i : Fin 3) (u : Timer) : (s.setTimer i u).dma = s.dma := rfl
@[simp] theorem State.setTimer_timers (s : State) (i : Fin 3) (u : Timer) : (s.setTimer i u).timers = s.timers.set i u := rfl
@[simp] theorem State.setTimer_cd (s : State) (i : Fin 3) (u : Timer) : (s.setTimer i u).cd = s.cd := rfl
@[simp] theorem State.setTimer_gpu (s : State) (i : Fin 3) (u : Timer) : (s.setTimer i u).gpu = s.gpu := rfl
@[simp] theorem State.setTimer_trace (s : State) (i : Fin 3) (u : Timer) : (s.setTimer i u).trace = s.trace := rfl
@[simp] theorem State.setTimer_stepCount (s : State) (i : Fin 3) (u : Timer) : (s.setTimer i u).stepCount = s.stepCount := rfl
@[simp] theorem State.setTimer_freeCount (s : State) (i : Fin 3) (u : Timer) : (s.setTimer i u).freeCount = s.freeCount := rfl
@[simp] theorem State.setTimer_params (s : State) (i : Fin 3) (u : Timer) : (s.setTimer i u).params = s.params := rfl
@[simp] theorem State.setTimer_inputs (s : State) (i : Fin 3) (u : Timer) : (s.setTimer i u).inputs = s.inputs := rfl

/-! ## `State.setDmaChannel` -/

@[simp] theorem State.setDmaChannel_regs (s : State) (n : Fin 7) (c : DmaChannel) : (s.setDmaChannel n c).regs = s.regs := rfl
@[simp] theorem State.setDmaChannel_pc (s : State) (n : Fin 7) (c : DmaChannel) : (s.setDmaChannel n c).pc = s.pc := rfl
@[simp] theorem State.setDmaChannel_nextPc (s : State) (n : Fin 7) (c : DmaChannel) : (s.setDmaChannel n c).nextPc = s.nextPc := rfl
@[simp] theorem State.setDmaChannel_currentPc (s : State) (n : Fin 7) (c : DmaChannel) : (s.setDmaChannel n c).currentPc = s.currentPc := rfl
@[simp] theorem State.setDmaChannel_hi (s : State) (n : Fin 7) (c : DmaChannel) : (s.setDmaChannel n c).hi = s.hi := rfl
@[simp] theorem State.setDmaChannel_lo (s : State) (n : Fin 7) (c : DmaChannel) : (s.setDmaChannel n c).lo = s.lo := rfl
@[simp] theorem State.setDmaChannel_pending (s : State) (n : Fin 7) (c : DmaChannel) : (s.setDmaChannel n c).pending = s.pending := rfl
@[simp] theorem State.setDmaChannel_sr (s : State) (n : Fin 7) (c : DmaChannel) : (s.setDmaChannel n c).sr = s.sr := rfl
@[simp] theorem State.setDmaChannel_cause (s : State) (n : Fin 7) (c : DmaChannel) : (s.setDmaChannel n c).cause = s.cause := rfl
@[simp] theorem State.setDmaChannel_epc (s : State) (n : Fin 7) (c : DmaChannel) : (s.setDmaChannel n c).epc = s.epc := rfl
@[simp] theorem State.setDmaChannel_badVaddr (s : State) (n : Fin 7) (c : DmaChannel) : (s.setDmaChannel n c).badVaddr = s.badVaddr := rfl
@[simp] theorem State.setDmaChannel_iStat (s : State) (n : Fin 7) (c : DmaChannel) : (s.setDmaChannel n c).iStat = s.iStat := rfl
@[simp] theorem State.setDmaChannel_iMask (s : State) (n : Fin 7) (c : DmaChannel) : (s.setDmaChannel n c).iMask = s.iMask := rfl
@[simp] theorem State.setDmaChannel_ram (s : State) (n : Fin 7) (c : DmaChannel) : (s.setDmaChannel n c).ram = s.ram := rfl
@[simp] theorem State.setDmaChannel_bios (s : State) (n : Fin 7) (c : DmaChannel) : (s.setDmaChannel n c).bios = s.bios := rfl
@[simp] theorem State.setDmaChannel_vram (s : State) (n : Fin 7) (c : DmaChannel) : (s.setDmaChannel n c).vram = s.vram := rfl
@[simp] theorem State.setDmaChannel_dma (s : State) (n : Fin 7) (c : DmaChannel) : (s.setDmaChannel n c).dma = { s.dma with channels := s.dma.channels.set n c } := rfl
@[simp] theorem State.setDmaChannel_timers (s : State) (n : Fin 7) (c : DmaChannel) : (s.setDmaChannel n c).timers = s.timers := rfl
@[simp] theorem State.setDmaChannel_cd (s : State) (n : Fin 7) (c : DmaChannel) : (s.setDmaChannel n c).cd = s.cd := rfl
@[simp] theorem State.setDmaChannel_gpu (s : State) (n : Fin 7) (c : DmaChannel) : (s.setDmaChannel n c).gpu = s.gpu := rfl
@[simp] theorem State.setDmaChannel_trace (s : State) (n : Fin 7) (c : DmaChannel) : (s.setDmaChannel n c).trace = s.trace := rfl
@[simp] theorem State.setDmaChannel_stepCount (s : State) (n : Fin 7) (c : DmaChannel) : (s.setDmaChannel n c).stepCount = s.stepCount := rfl
@[simp] theorem State.setDmaChannel_freeCount (s : State) (n : Fin 7) (c : DmaChannel) : (s.setDmaChannel n c).freeCount = s.freeCount := rfl
@[simp] theorem State.setDmaChannel_params (s : State) (n : Fin 7) (c : DmaChannel) : (s.setDmaChannel n c).params = s.params := rfl
@[simp] theorem State.setDmaChannel_inputs (s : State) (n : Fin 7) (c : DmaChannel) : (s.setDmaChannel n c).inputs = s.inputs := rfl

/-! ## `State.emit` -/

@[simp] theorem State.emit_regs (s : State) (e : Event) : (s.emit e).regs = s.regs := rfl
@[simp] theorem State.emit_pc (s : State) (e : Event) : (s.emit e).pc = s.pc := rfl
@[simp] theorem State.emit_nextPc (s : State) (e : Event) : (s.emit e).nextPc = s.nextPc := rfl
@[simp] theorem State.emit_currentPc (s : State) (e : Event) : (s.emit e).currentPc = s.currentPc := rfl
@[simp] theorem State.emit_hi (s : State) (e : Event) : (s.emit e).hi = s.hi := rfl
@[simp] theorem State.emit_lo (s : State) (e : Event) : (s.emit e).lo = s.lo := rfl
@[simp] theorem State.emit_pending (s : State) (e : Event) : (s.emit e).pending = s.pending := rfl
@[simp] theorem State.emit_sr (s : State) (e : Event) : (s.emit e).sr = s.sr := rfl
@[simp] theorem State.emit_cause (s : State) (e : Event) : (s.emit e).cause = s.cause := rfl
@[simp] theorem State.emit_epc (s : State) (e : Event) : (s.emit e).epc = s.epc := rfl
@[simp] theorem State.emit_badVaddr (s : State) (e : Event) : (s.emit e).badVaddr = s.badVaddr := rfl
@[simp] theorem State.emit_iStat (s : State) (e : Event) : (s.emit e).iStat = s.iStat := rfl
@[simp] theorem State.emit_iMask (s : State) (e : Event) : (s.emit e).iMask = s.iMask := rfl
@[simp] theorem State.emit_ram (s : State) (e : Event) : (s.emit e).ram = s.ram := rfl
@[simp] theorem State.emit_bios (s : State) (e : Event) : (s.emit e).bios = s.bios := rfl
@[simp] theorem State.emit_vram (s : State) (e : Event) : (s.emit e).vram = s.vram := rfl
@[simp] theorem State.emit_dma (s : State) (e : Event) : (s.emit e).dma = s.dma := rfl
@[simp] theorem State.emit_timers (s : State) (e : Event) : (s.emit e).timers = s.timers := rfl
@[simp] theorem State.emit_cd (s : State) (e : Event) : (s.emit e).cd = s.cd := rfl
@[simp] theorem State.emit_gpu (s : State) (e : Event) : (s.emit e).gpu = s.gpu := rfl
@[simp] theorem State.emit_trace (s : State) (e : Event) : (s.emit e).trace = s.trace ++ [e] := rfl
@[simp] theorem State.emit_stepCount (s : State) (e : Event) : (s.emit e).stepCount = s.stepCount := rfl
@[simp] theorem State.emit_freeCount (s : State) (e : Event) : (s.emit e).freeCount = s.freeCount := rfl
@[simp] theorem State.emit_params (s : State) (e : Event) : (s.emit e).params = s.params := rfl
@[simp] theorem State.emit_inputs (s : State) (e : Event) : (s.emit e).inputs = s.inputs := rfl

/-! ## `State.requestIrq` -/

@[simp] theorem State.requestIrq_regs (s : State) (k : Nat) : (s.requestIrq k).regs = s.regs := rfl
@[simp] theorem State.requestIrq_pc (s : State) (k : Nat) : (s.requestIrq k).pc = s.pc := rfl
@[simp] theorem State.requestIrq_nextPc (s : State) (k : Nat) : (s.requestIrq k).nextPc = s.nextPc := rfl
@[simp] theorem State.requestIrq_currentPc (s : State) (k : Nat) : (s.requestIrq k).currentPc = s.currentPc := rfl
@[simp] theorem State.requestIrq_hi (s : State) (k : Nat) : (s.requestIrq k).hi = s.hi := rfl
@[simp] theorem State.requestIrq_lo (s : State) (k : Nat) : (s.requestIrq k).lo = s.lo := rfl
@[simp] theorem State.requestIrq_pending (s : State) (k : Nat) : (s.requestIrq k).pending = s.pending := rfl
@[simp] theorem State.requestIrq_sr (s : State) (k : Nat) : (s.requestIrq k).sr = s.sr := rfl
@[simp] theorem State.requestIrq_cause (s : State) (k : Nat) : (s.requestIrq k).cause = s.cause := rfl
@[simp] theorem State.requestIrq_epc (s : State) (k : Nat) : (s.requestIrq k).epc = s.epc := rfl
@[simp] theorem State.requestIrq_badVaddr (s : State) (k : Nat) : (s.requestIrq k).badVaddr = s.badVaddr := rfl
@[simp] theorem State.requestIrq_iStat (s : State) (k : Nat) : (s.requestIrq k).iStat = s.iStat ||| ((1#11) <<< k) := rfl
@[simp] theorem State.requestIrq_iMask (s : State) (k : Nat) : (s.requestIrq k).iMask = s.iMask := rfl
@[simp] theorem State.requestIrq_ram (s : State) (k : Nat) : (s.requestIrq k).ram = s.ram := rfl
@[simp] theorem State.requestIrq_bios (s : State) (k : Nat) : (s.requestIrq k).bios = s.bios := rfl
@[simp] theorem State.requestIrq_vram (s : State) (k : Nat) : (s.requestIrq k).vram = s.vram := rfl
@[simp] theorem State.requestIrq_dma (s : State) (k : Nat) : (s.requestIrq k).dma = s.dma := rfl
@[simp] theorem State.requestIrq_timers (s : State) (k : Nat) : (s.requestIrq k).timers = s.timers := rfl
@[simp] theorem State.requestIrq_cd (s : State) (k : Nat) : (s.requestIrq k).cd = s.cd := rfl
@[simp] theorem State.requestIrq_gpu (s : State) (k : Nat) : (s.requestIrq k).gpu = s.gpu := rfl
@[simp] theorem State.requestIrq_trace (s : State) (k : Nat) : (s.requestIrq k).trace = s.trace := rfl
@[simp] theorem State.requestIrq_stepCount (s : State) (k : Nat) : (s.requestIrq k).stepCount = s.stepCount := rfl
@[simp] theorem State.requestIrq_freeCount (s : State) (k : Nat) : (s.requestIrq k).freeCount = s.freeCount := rfl
@[simp] theorem State.requestIrq_params (s : State) (k : Nat) : (s.requestIrq k).params = s.params := rfl
@[simp] theorem State.requestIrq_inputs (s : State) (k : Nat) : (s.requestIrq k).inputs = s.inputs := rfl

/-! ## `State.forceZero` -/

@[simp] theorem State.forceZero_regs (s : State) : s.forceZero.regs = s.regs.set 0 0 := rfl
@[simp] theorem State.forceZero_pc (s : State) : s.forceZero.pc = s.pc := rfl
@[simp] theorem State.forceZero_nextPc (s : State) : s.forceZero.nextPc = s.nextPc := rfl
@[simp] theorem State.forceZero_currentPc (s : State) : s.forceZero.currentPc = s.currentPc := rfl
@[simp] theorem State.forceZero_hi (s : State) : s.forceZero.hi = s.hi := rfl
@[simp] theorem State.forceZero_lo (s : State) : s.forceZero.lo = s.lo := rfl
@[simp] theorem State.forceZero_pending (s : State) : s.forceZero.pending = s.pending := rfl
@[simp] theorem State.forceZero_sr (s : State) : s.forceZero.sr = s.sr := rfl
@[simp] theorem State.forceZero_cause (s : State) : s.forceZero.cause = s.cause := rfl
@[simp] theorem State.forceZero_epc (s : State) : s.forceZero.epc = s.epc := rfl
@[simp] theorem State.forceZero_badVaddr (s : State) : s.forceZero.badVaddr = s.badVaddr := rfl
@[simp] theorem State.forceZero_iStat (s : State) : s.forceZero.iStat = s.iStat := rfl
@[simp] theorem State.forceZero_iMask (s : State) : s.forceZero.iMask = s.iMask := rfl
@[simp] theorem State.forceZero_ram (s : State) : s.forceZero.ram = s.ram := rfl
@[simp] theorem State.forceZero_bios (s : State) : s.forceZero.bios = s.bios := rfl
@[simp] theorem State.forceZero_vram (s : State) : s.forceZero.vram = s.vram := rfl
@[simp] theorem State.forceZero_dma (s : State) : s.forceZero.dma = s.dma := rfl
@[simp] theorem State.forceZero_timers (s : State) : s.forceZero.timers = s.timers := rfl
@[simp] theorem State.forceZero_cd (s : State) : s.forceZero.cd = s.cd := rfl
@[simp] theorem State.forceZero_gpu (s : State) : s.forceZero.gpu = s.gpu := rfl
@[simp] theorem State.forceZero_trace (s : State) : s.forceZero.trace = s.trace := rfl
@[simp] theorem State.forceZero_stepCount (s : State) : s.forceZero.stepCount = s.stepCount := rfl
@[simp] theorem State.forceZero_freeCount (s : State) : s.forceZero.freeCount = s.freeCount := rfl
@[simp] theorem State.forceZero_params (s : State) : s.forceZero.params = s.params := rfl
@[simp] theorem State.forceZero_inputs (s : State) : s.forceZero.inputs = s.inputs := rfl

/-! ## `State.poll` -/

@[simp] theorem State.poll_regs (s : State) : s.poll.regs = s.regs := rfl
@[simp] theorem State.poll_pc (s : State) : s.poll.pc = s.pc := rfl
@[simp] theorem State.poll_nextPc (s : State) : s.poll.nextPc = s.nextPc := rfl
@[simp] theorem State.poll_currentPc (s : State) : s.poll.currentPc = s.currentPc := rfl
@[simp] theorem State.poll_hi (s : State) : s.poll.hi = s.hi := rfl
@[simp] theorem State.poll_lo (s : State) : s.poll.lo = s.lo := rfl
@[simp] theorem State.poll_pending (s : State) : s.poll.pending = s.pending := rfl
@[simp] theorem State.poll_sr (s : State) : s.poll.sr = s.sr := rfl
@[simp] theorem State.poll_cause (s : State) : s.poll.cause = setBit s.cause 10 s.irqLine := rfl
@[simp] theorem State.poll_epc (s : State) : s.poll.epc = s.epc := rfl
@[simp] theorem State.poll_badVaddr (s : State) : s.poll.badVaddr = s.badVaddr := rfl
@[simp] theorem State.poll_iStat (s : State) : s.poll.iStat = s.iStat := rfl
@[simp] theorem State.poll_iMask (s : State) : s.poll.iMask = s.iMask := rfl
@[simp] theorem State.poll_ram (s : State) : s.poll.ram = s.ram := rfl
@[simp] theorem State.poll_bios (s : State) : s.poll.bios = s.bios := rfl
@[simp] theorem State.poll_vram (s : State) : s.poll.vram = s.vram := rfl
@[simp] theorem State.poll_dma (s : State) : s.poll.dma = s.dma := rfl
@[simp] theorem State.poll_timers (s : State) : s.poll.timers = s.timers := rfl
@[simp] theorem State.poll_cd (s : State) : s.poll.cd = s.cd := rfl
@[simp] theorem State.poll_gpu (s : State) : s.poll.gpu = s.gpu := rfl
@[simp] theorem State.poll_trace (s : State) : s.poll.trace = s.trace := rfl
@[simp] theorem State.poll_stepCount (s : State) : s.poll.stepCount = s.stepCount := rfl
@[simp] theorem State.poll_freeCount (s : State) : s.poll.freeCount = s.freeCount := rfl
@[simp] theorem State.poll_params (s : State) : s.poll.params = s.params := rfl
@[simp] theorem State.poll_inputs (s : State) : s.poll.inputs = s.inputs := rfl

/-! ## `State.latch` -/

@[simp] theorem State.latch_regs (s : State) : s.latch.regs = s.regs := rfl
@[simp] theorem State.latch_pc (s : State) : s.latch.pc = s.pc := rfl
@[simp] theorem State.latch_nextPc (s : State) : s.latch.nextPc = s.nextPc := rfl
@[simp] theorem State.latch_currentPc (s : State) : s.latch.currentPc = s.pc := rfl
@[simp] theorem State.latch_hi (s : State) : s.latch.hi = s.hi := rfl
@[simp] theorem State.latch_lo (s : State) : s.latch.lo = s.lo := rfl
@[simp] theorem State.latch_pending (s : State) : s.latch.pending = s.pending := rfl
@[simp] theorem State.latch_sr (s : State) : s.latch.sr = s.sr := rfl
@[simp] theorem State.latch_cause (s : State) : s.latch.cause = s.cause := rfl
@[simp] theorem State.latch_epc (s : State) : s.latch.epc = s.epc := rfl
@[simp] theorem State.latch_badVaddr (s : State) : s.latch.badVaddr = s.badVaddr := rfl
@[simp] theorem State.latch_iStat (s : State) : s.latch.iStat = s.iStat := rfl
@[simp] theorem State.latch_iMask (s : State) : s.latch.iMask = s.iMask := rfl
@[simp] theorem State.latch_ram (s : State) : s.latch.ram = s.ram := rfl
@[simp] theorem State.latch_bios (s : State) : s.latch.bios = s.bios := rfl
@[simp] theorem State.latch_vram (s : State) : s.latch.vram = s.vram := rfl
@[simp] theorem State.latch_dma (s : State) : s.latch.dma = s.dma := rfl
@[simp] theorem State.latch_timers (s : State) : s.latch.timers = s.timers := rfl
@[simp] theorem State.latch_cd (s : State) : s.latch.cd = s.cd := rfl
@[simp] theorem State.latch_gpu (s : State) : s.latch.gpu = s.gpu := rfl
@[simp] theorem State.latch_trace (s : State) : s.latch.trace = s.trace := rfl
@[simp] theorem State.latch_stepCount (s : State) : s.latch.stepCount = s.stepCount := rfl
@[simp] theorem State.latch_freeCount (s : State) : s.latch.freeCount = s.freeCount := rfl
@[simp] theorem State.latch_params (s : State) : s.latch.params = s.params := rfl
@[simp] theorem State.latch_inputs (s : State) : s.latch.inputs = s.inputs := rfl

/-! ## `State.advance` -/

@[simp] theorem State.advance_regs (s : State) : s.advance.regs = s.regs := rfl
@[simp] theorem State.advance_pc (s : State) : s.advance.pc = s.nextPc := rfl
@[simp] theorem State.advance_nextPc (s : State) : s.advance.nextPc = s.nextPc + 4 := rfl
@[simp] theorem State.advance_currentPc (s : State) : s.advance.currentPc = s.currentPc := rfl
@[simp] theorem State.advance_hi (s : State) : s.advance.hi = s.hi := rfl
@[simp] theorem State.advance_lo (s : State) : s.advance.lo = s.lo := rfl
@[simp] theorem State.advance_pending (s : State) : s.advance.pending = s.pending := rfl
@[simp] theorem State.advance_sr (s : State) : s.advance.sr = s.sr := rfl
@[simp] theorem State.advance_cause (s : State) : s.advance.cause = s.cause := rfl
@[simp] theorem State.advance_epc (s : State) : s.advance.epc = s.epc := rfl
@[simp] theorem State.advance_badVaddr (s : State) : s.advance.badVaddr = s.badVaddr := rfl
@[simp] theorem State.advance_iStat (s : State) : s.advance.iStat = s.iStat := rfl
@[simp] theorem State.advance_iMask (s : State) : s.advance.iMask = s.iMask := rfl
@[simp] theorem State.advance_ram (s : State) : s.advance.ram = s.ram := rfl
@[simp] theorem State.advance_bios (s : State) : s.advance.bios = s.bios := rfl
@[simp] theorem State.advance_vram (s : State) : s.advance.vram = s.vram := rfl
@[simp] theorem State.advance_dma (s : State) : s.advance.dma = s.dma := rfl
@[simp] theorem State.advance_timers (s : State) : s.advance.timers = s.timers := rfl
@[simp] theorem State.advance_cd (s : State) : s.advance.cd = s.cd := rfl
@[simp] theorem State.advance_gpu (s : State) : s.advance.gpu = s.gpu := rfl
@[simp] theorem State.advance_trace (s : State) : s.advance.trace = s.trace := rfl
@[simp] theorem State.advance_stepCount (s : State) : s.advance.stepCount = s.stepCount := rfl
@[simp] theorem State.advance_freeCount (s : State) : s.advance.freeCount = s.freeCount := rfl
@[simp] theorem State.advance_params (s : State) : s.advance.params = s.params := rfl
@[simp] theorem State.advance_inputs (s : State) : s.advance.inputs = s.inputs := rfl

/-! ## `State.countStep` -/

@[simp] theorem State.countStep_regs (s : State) : s.countStep.regs = s.regs := rfl
@[simp] theorem State.countStep_pc (s : State) : s.countStep.pc = s.pc := rfl
@[simp] theorem State.countStep_nextPc (s : State) : s.countStep.nextPc = s.nextPc := rfl
@[simp] theorem State.countStep_currentPc (s : State) : s.countStep.currentPc = s.currentPc := rfl
@[simp] theorem State.countStep_hi (s : State) : s.countStep.hi = s.hi := rfl
@[simp] theorem State.countStep_lo (s : State) : s.countStep.lo = s.lo := rfl
@[simp] theorem State.countStep_pending (s : State) : s.countStep.pending = s.pending := rfl
@[simp] theorem State.countStep_sr (s : State) : s.countStep.sr = s.sr := rfl
@[simp] theorem State.countStep_cause (s : State) : s.countStep.cause = s.cause := rfl
@[simp] theorem State.countStep_epc (s : State) : s.countStep.epc = s.epc := rfl
@[simp] theorem State.countStep_badVaddr (s : State) : s.countStep.badVaddr = s.badVaddr := rfl
@[simp] theorem State.countStep_iStat (s : State) : s.countStep.iStat = s.iStat := rfl
@[simp] theorem State.countStep_iMask (s : State) : s.countStep.iMask = s.iMask := rfl
@[simp] theorem State.countStep_ram (s : State) : s.countStep.ram = s.ram := rfl
@[simp] theorem State.countStep_bios (s : State) : s.countStep.bios = s.bios := rfl
@[simp] theorem State.countStep_vram (s : State) : s.countStep.vram = s.vram := rfl
@[simp] theorem State.countStep_dma (s : State) : s.countStep.dma = s.dma := rfl
@[simp] theorem State.countStep_timers (s : State) : s.countStep.timers = s.timers := rfl
@[simp] theorem State.countStep_cd (s : State) : s.countStep.cd = s.cd := rfl
@[simp] theorem State.countStep_gpu (s : State) : s.countStep.gpu = s.gpu := rfl
@[simp] theorem State.countStep_trace (s : State) : s.countStep.trace = s.trace := rfl
@[simp] theorem State.countStep_stepCount (s : State) : s.countStep.stepCount = s.stepCount + 1 := rfl
@[simp] theorem State.countStep_freeCount (s : State) : s.countStep.freeCount = s.freeCount := rfl
@[simp] theorem State.countStep_params (s : State) : s.countStep.params = s.params := rfl
@[simp] theorem State.countStep_inputs (s : State) : s.countStep.inputs = s.inputs := rfl

/-! ## `State.enterException` -/

@[simp] theorem State.enterException_regs (s : State) (e : Exception) (a b : Word) (ce : BitVec 2) :
    (s.enterException e a b ce).regs = s.regs := rfl
@[simp] theorem State.enterException_pc (s : State) (e : Exception) (a b : Word) (ce : BitVec 2) :
    (s.enterException e a b ce).pc = s.vector := rfl
@[simp] theorem State.enterException_nextPc (s : State) (e : Exception) (a b : Word) (ce : BitVec 2) :
    (s.enterException e a b ce).nextPc = s.vector + 4 := rfl
@[simp] theorem State.enterException_currentPc (s : State) (e : Exception) (a b : Word) (ce : BitVec 2) :
    (s.enterException e a b ce).currentPc = s.currentPc := rfl
@[simp] theorem State.enterException_hi (s : State) (e : Exception) (a b : Word) (ce : BitVec 2) :
    (s.enterException e a b ce).hi = s.hi := rfl
@[simp] theorem State.enterException_lo (s : State) (e : Exception) (a b : Word) (ce : BitVec 2) :
    (s.enterException e a b ce).lo = s.lo := rfl
@[simp] theorem State.enterException_pending (s : State) (e : Exception) (a b : Word) (ce : BitVec 2) :
    (s.enterException e a b ce).pending = s.pending := rfl
@[simp] theorem State.enterException_sr (s : State) (e : Exception) (a b : Word) (ce : BitVec 2) :
    (s.enterException e a b ce).sr = pushStatus s.sr := rfl
@[simp] theorem State.enterException_cause (s : State) (e : Exception) (a b : Word) (ce : BitVec 2) :
    (s.enterException e a b ce).cause = recordCause s.cause e.code (inDelaySlot a b) ce := rfl
@[simp] theorem State.enterException_epc (s : State) (e : Exception) (a b : Word) (ce : BitVec 2) :
    (s.enterException e a b ce).epc = if inDelaySlot a b then a - 4 else a := rfl
@[simp] theorem State.enterException_badVaddr (s : State) (e : Exception) (a b : Word) (ce : BitVec 2) :
    (s.enterException e a b ce).badVaddr = s.badVaddr := rfl
@[simp] theorem State.enterException_iStat (s : State) (e : Exception) (a b : Word) (ce : BitVec 2) :
    (s.enterException e a b ce).iStat = s.iStat := rfl
@[simp] theorem State.enterException_iMask (s : State) (e : Exception) (a b : Word) (ce : BitVec 2) :
    (s.enterException e a b ce).iMask = s.iMask := rfl
@[simp] theorem State.enterException_ram (s : State) (e : Exception) (a b : Word) (ce : BitVec 2) :
    (s.enterException e a b ce).ram = s.ram := rfl
@[simp] theorem State.enterException_bios (s : State) (e : Exception) (a b : Word) (ce : BitVec 2) :
    (s.enterException e a b ce).bios = s.bios := rfl
@[simp] theorem State.enterException_vram (s : State) (e : Exception) (a b : Word) (ce : BitVec 2) :
    (s.enterException e a b ce).vram = s.vram := rfl
@[simp] theorem State.enterException_dma (s : State) (e : Exception) (a b : Word) (ce : BitVec 2) :
    (s.enterException e a b ce).dma = s.dma := rfl
@[simp] theorem State.enterException_timers (s : State) (e : Exception) (a b : Word) (ce : BitVec 2) :
    (s.enterException e a b ce).timers = s.timers := rfl
@[simp] theorem State.enterException_cd (s : State) (e : Exception) (a b : Word) (ce : BitVec 2) :
    (s.enterException e a b ce).cd = s.cd := rfl
@[simp] theorem State.enterException_gpu (s : State) (e : Exception) (a b : Word) (ce : BitVec 2) :
    (s.enterException e a b ce).gpu = s.gpu := rfl
@[simp] theorem State.enterException_trace (s : State) (e : Exception) (a b : Word) (ce : BitVec 2) :
    (s.enterException e a b ce).trace = s.trace := rfl
@[simp] theorem State.enterException_stepCount (s : State) (e : Exception) (a b : Word) (ce : BitVec 2) :
    (s.enterException e a b ce).stepCount = s.stepCount := rfl
@[simp] theorem State.enterException_freeCount (s : State) (e : Exception) (a b : Word) (ce : BitVec 2) :
    (s.enterException e a b ce).freeCount = s.freeCount := rfl
@[simp] theorem State.enterException_params (s : State) (e : Exception) (a b : Word) (ce : BitVec 2) :
    (s.enterException e a b ce).params = s.params := rfl
@[simp] theorem State.enterException_inputs (s : State) (e : Exception) (a b : Word) (ce : BitVec 2) :
    (s.enterException e a b ce).inputs = s.inputs := rfl

/-! ## `State.setReg`: everything but the register file stays -/

@[simp] theorem State.setReg_pc (s : State) (r : Reg) (v : Word) : (s.setReg r v).pc = s.pc := by
  unfold State.setReg; split <;> rfl
@[simp] theorem State.setReg_nextPc (s : State) (r : Reg) (v : Word) : (s.setReg r v).nextPc = s.nextPc := by
  unfold State.setReg; split <;> rfl
@[simp] theorem State.setReg_currentPc (s : State) (r : Reg) (v : Word) : (s.setReg r v).currentPc = s.currentPc := by
  unfold State.setReg; split <;> rfl
@[simp] theorem State.setReg_hi (s : State) (r : Reg) (v : Word) : (s.setReg r v).hi = s.hi := by
  unfold State.setReg; split <;> rfl
@[simp] theorem State.setReg_lo (s : State) (r : Reg) (v : Word) : (s.setReg r v).lo = s.lo := by
  unfold State.setReg; split <;> rfl
@[simp] theorem State.setReg_pending (s : State) (r : Reg) (v : Word) : (s.setReg r v).pending = s.pending := by
  unfold State.setReg; split <;> rfl
@[simp] theorem State.setReg_sr (s : State) (r : Reg) (v : Word) : (s.setReg r v).sr = s.sr := by
  unfold State.setReg; split <;> rfl
@[simp] theorem State.setReg_cause (s : State) (r : Reg) (v : Word) : (s.setReg r v).cause = s.cause := by
  unfold State.setReg; split <;> rfl
@[simp] theorem State.setReg_epc (s : State) (r : Reg) (v : Word) : (s.setReg r v).epc = s.epc := by
  unfold State.setReg; split <;> rfl
@[simp] theorem State.setReg_badVaddr (s : State) (r : Reg) (v : Word) : (s.setReg r v).badVaddr = s.badVaddr := by
  unfold State.setReg; split <;> rfl
@[simp] theorem State.setReg_iStat (s : State) (r : Reg) (v : Word) : (s.setReg r v).iStat = s.iStat := by
  unfold State.setReg; split <;> rfl
@[simp] theorem State.setReg_iMask (s : State) (r : Reg) (v : Word) : (s.setReg r v).iMask = s.iMask := by
  unfold State.setReg; split <;> rfl
@[simp] theorem State.setReg_ram (s : State) (r : Reg) (v : Word) : (s.setReg r v).ram = s.ram := by
  unfold State.setReg; split <;> rfl
@[simp] theorem State.setReg_bios (s : State) (r : Reg) (v : Word) : (s.setReg r v).bios = s.bios := by
  unfold State.setReg; split <;> rfl
@[simp] theorem State.setReg_vram (s : State) (r : Reg) (v : Word) : (s.setReg r v).vram = s.vram := by
  unfold State.setReg; split <;> rfl
@[simp] theorem State.setReg_dma (s : State) (r : Reg) (v : Word) : (s.setReg r v).dma = s.dma := by
  unfold State.setReg; split <;> rfl
@[simp] theorem State.setReg_timers (s : State) (r : Reg) (v : Word) : (s.setReg r v).timers = s.timers := by
  unfold State.setReg; split <;> rfl
@[simp] theorem State.setReg_cd (s : State) (r : Reg) (v : Word) : (s.setReg r v).cd = s.cd := by
  unfold State.setReg; split <;> rfl
@[simp] theorem State.setReg_gpu (s : State) (r : Reg) (v : Word) : (s.setReg r v).gpu = s.gpu := by
  unfold State.setReg; split <;> rfl
@[simp] theorem State.setReg_trace (s : State) (r : Reg) (v : Word) : (s.setReg r v).trace = s.trace := by
  unfold State.setReg; split <;> rfl
@[simp] theorem State.setReg_stepCount (s : State) (r : Reg) (v : Word) : (s.setReg r v).stepCount = s.stepCount := by
  unfold State.setReg; split <;> rfl
@[simp] theorem State.setReg_freeCount (s : State) (r : Reg) (v : Word) : (s.setReg r v).freeCount = s.freeCount := by
  unfold State.setReg; split <;> rfl
@[simp] theorem State.setReg_params (s : State) (r : Reg) (v : Word) : (s.setReg r v).params = s.params := by
  unfold State.setReg; split <;> rfl
@[simp] theorem State.setReg_inputs (s : State) (r : Reg) (v : Word) : (s.setReg r v).inputs = s.inputs := by
  unfold State.setReg; split <;> rfl

/-! ## `State.land`: everything but the register file and the slot stays -/

@[simp] theorem State.land_pc (s : State) : s.land.pc = s.pc := by simp [State.land]
@[simp] theorem State.land_nextPc (s : State) : s.land.nextPc = s.nextPc := by simp [State.land]
@[simp] theorem State.land_currentPc (s : State) : s.land.currentPc = s.currentPc := by simp [State.land]
@[simp] theorem State.land_hi (s : State) : s.land.hi = s.hi := by simp [State.land]
@[simp] theorem State.land_lo (s : State) : s.land.lo = s.lo := by simp [State.land]
@[simp] theorem State.land_pending (s : State) : s.land.pending = { index := 0, value := 0 } := rfl
@[simp] theorem State.land_sr (s : State) : s.land.sr = s.sr := by simp [State.land]
@[simp] theorem State.land_cause (s : State) : s.land.cause = s.cause := by simp [State.land]
@[simp] theorem State.land_epc (s : State) : s.land.epc = s.epc := by simp [State.land]
@[simp] theorem State.land_badVaddr (s : State) : s.land.badVaddr = s.badVaddr := by simp [State.land]
@[simp] theorem State.land_iStat (s : State) : s.land.iStat = s.iStat := by simp [State.land]
@[simp] theorem State.land_iMask (s : State) : s.land.iMask = s.iMask := by simp [State.land]
@[simp] theorem State.land_ram (s : State) : s.land.ram = s.ram := by simp [State.land]
@[simp] theorem State.land_bios (s : State) : s.land.bios = s.bios := by simp [State.land]
@[simp] theorem State.land_vram (s : State) : s.land.vram = s.vram := by simp [State.land]
@[simp] theorem State.land_dma (s : State) : s.land.dma = s.dma := by simp [State.land]
@[simp] theorem State.land_timers (s : State) : s.land.timers = s.timers := by simp [State.land]
@[simp] theorem State.land_cd (s : State) : s.land.cd = s.cd := by simp [State.land]
@[simp] theorem State.land_gpu (s : State) : s.land.gpu = s.gpu := by simp [State.land]
@[simp] theorem State.land_trace (s : State) : s.land.trace = s.trace := by simp [State.land]
@[simp] theorem State.land_stepCount (s : State) : s.land.stepCount = s.stepCount := by simp [State.land]
@[simp] theorem State.land_freeCount (s : State) : s.land.freeCount = s.freeCount := by simp [State.land]
@[simp] theorem State.land_params (s : State) : s.land.params = s.params := by simp [State.land]
@[simp] theorem State.land_inputs (s : State) : s.land.inputs = s.inputs := by simp [State.land]

end Machine
end Sys2Proof
end

