-- ==== Sys2Proof/Laws/Memory.lean ====
section
/-! SUPPORT. The byte stores: a read after a write, and the canonical form that every write keeps. -/

namespace Sys2Proof
namespace Machine

/-- Reading one cell after a write of one cell. -/
theorem Memory.lookup_store (m : Memory) (k : Nat) (v : Byte) (j : Nat) (lo size : Nat)
    (h : Memory.risesFrom size lo m = true) :
    (m.store k v).lookup j = if j = k then some v else m.lookup j := by
  induction m generalizing lo with
  | nil =>
    by_cases hj : j = k
    · simp [Memory.store, Memory.lookup, hj]
    · simp [Memory.store, Memory.lookup, hj, Ne.symm hj]
  | cons c rest ih =>
    obtain ⟨a, u⟩ := c
    simp only [Memory.risesFrom, Bool.and_eq_true, decide_eq_true_eq] at h
    unfold Memory.store
    by_cases h1 : k < a
    · rw [if_pos h1]
      by_cases hj : j = k
      · simp [Memory.lookup, hj]
      · simp [Memory.lookup, hj, Ne.symm hj]
    · rw [if_neg h1]
      by_cases h2 : k = a
      · subst h2
        by_cases hj : j = k
        · simp [Memory.lookup, hj]
        · simp [Memory.lookup, hj, Ne.symm hj]
      · rw [if_neg h2]
        have := ih (a + 1) h.2
        by_cases hj : j = k
        · subst hj; simp [Memory.lookup, this, Ne.symm h2]
        · by_cases ha : a = j <;> simp [Memory.lookup, this, hj, ha]

theorem Memory.risesFrom_mono {size lo lo' : Nat} {m : Memory} (h : Memory.risesFrom size lo m = true) (hl : lo' ≤ lo) :
    Memory.risesFrom size lo' m = true := by
  cases m with
  | nil => rfl
  | cons c rest =>
    obtain ⟨a, u⟩ := c
    simp only [Memory.risesFrom, Bool.and_eq_true, decide_eq_true_eq] at h ⊢
    exact ⟨⟨by omega, h.1.2⟩, h.2⟩

theorem Memory.risesFrom_store {size lo : Nat} {m : Memory} (h : Memory.risesFrom size lo m = true) (k : Nat) (v : Byte)
    (hlo : lo ≤ k) (hk : k < size) : Memory.risesFrom size lo (m.store k v) = true := by
  induction m generalizing lo with
  | nil => simp [Memory.store, Memory.risesFrom, hlo, hk]
  | cons c rest ih =>
    obtain ⟨a, u⟩ := c
    simp only [Memory.risesFrom, Bool.and_eq_true, decide_eq_true_eq] at h
    unfold Memory.store
    split
    · simp only [Memory.risesFrom, Bool.and_eq_true, decide_eq_true_eq]
      exact ⟨⟨hlo, hk⟩, ⟨by omega, h.1.2⟩, h.2⟩
    · split
      · subst k
        simp only [Memory.risesFrom, Bool.and_eq_true, decide_eq_true_eq]
        exact h
      · simp only [Memory.risesFrom, Bool.and_eq_true, decide_eq_true_eq]
        exact ⟨h.1, ih h.2 (by omega)⟩

/-- A write inside the store keeps the canonical form. -/
theorem Memory.wf_store {size : Nat} {m : Memory} (h : m.wf size = true) {k : Nat} (v : Byte) (hk : k < size) :
    (m.store k v).wf size = true :=
  Memory.risesFrom_store h k v (Nat.zero_le k) hk

theorem Memory.wf_storeBytes {size : Nat} (n : Nat) {m : Memory} (h : m.wf size = true) {k : Nat} (v : Word)
    (hk : k + n ≤ size) : (m.storeBytes k n v).wf size = true := by
  induction n generalizing m k v with
  | zero => exact h
  | succ n ih => exact ih (Memory.wf_store h _ (by omega)) _ (by omega)

/-- Reading one cell after a write of `n` bytes: byte `j - k` of the value, least significant first. -/
theorem Memory.lookup_storeBytes {size : Nat} (n : Nat) {m : Memory} (h : m.wf size = true) (k : Nat) (v : Word)
    (hk : k + n ≤ size) (j : Nat) :
    (m.storeBytes k n v).lookup j =
      if k ≤ j ∧ j < k + n then some (v.extractLsb' (8 * (j - k)) 8) else m.lookup j := by
  induction n generalizing m k v with
  | zero => rw [if_neg (by omega)]; rfl
  | succ n ih =>
    rw [Memory.storeBytes, ih (Memory.wf_store h _ (by omega)) _ _ (by omega), Memory.lookup_store m k _ j 0 size h]
    by_cases hj : j = k
    · subst hj
      rw [if_neg (by omega), if_pos rfl, if_pos (by omega)]
      simp
    · by_cases h1 : k + 1 ≤ j ∧ j < k + 1 + n
      · rw [if_pos h1, if_pos (by omega)]
        congr 1
        apply BitVec.eq_of_getLsbD_eq
        intro i hi
        simp only [BitVec.getLsbD_extractLsb', BitVec.getLsbD_ushiftRight, hi, decide_true, Bool.true_and]
        congr 1
        omega
      · rw [if_neg h1, if_neg hj, if_neg (by omega)]

/-! ## Main RAM, BIOS and VRAM -/

/-- A write of main RAM changes main RAM only. -/
theorem State.ramWrite_eq (s : State) (k n : Nat) (v : Word) :
    s.ramWrite k n v = { s with ram := (s.ramWrite k n v).ram } := by
  unfold State.ramWrite; split <;> rfl

/-- A byte of main RAM after a write inside it. -/
theorem State.ramByte_ramWrite (s : State) (h : s.ram.wf Config.ramSize = true) (k n : Nat) (v : Word)
    (hk : k + n ≤ Config.ramSize) (j : Nat) :
    (s.ramWrite k n v).ramByte j =
      if k ≤ j ∧ j < k + n then v.extractLsb' (8 * (j - k)) 8 else s.ramByte j := by
  have e : s.ramWrite k n v = { s with ram := s.ram.storeBytes k n v } := if_pos hk
  rw [e]
  simp only [State.ramByte]
  by_cases hj : k ≤ j ∧ j < k + n
  · rw [if_pos hj, if_pos (by omega), Memory.lookup_storeBytes n h k v hk, if_pos hj]; rfl
  · rw [if_neg hj, Memory.lookup_storeBytes n h k v hk, if_neg hj]

/-- A write that would leave main RAM changes nothing. -/
theorem State.ramWrite_outside (s : State) (k n : Nat) (v : Word) (h : Config.ramSize < k + n) : s.ramWrite k n v = s :=
  if_neg (by omega)

theorem State.wf_ramWrite (s : State) (h : s.ram.wf Config.ramSize = true) (k n : Nat) (v : Word) :
    (s.ramWrite k n v).ram.wf Config.ramSize = true := by
  unfold State.ramWrite
  split
  · exact Memory.wf_storeBytes n h v (by assumption)
  · exact h

/-- A write of a pixel changes VRAM only. -/
theorem State.setPixel_eq (s : State) (x y : Nat) (v : Half) : s.setPixel x y v = { s with vram := (s.setPixel x y v).vram } := by
  unfold State.setPixel; split <;> rfl

theorem State.wf_setPixel (s : State) (h : s.vram.wf Config.vramSize = true) (x y : Nat) (v : Half) :
    (s.setPixel x y v).vram.wf Config.vramSize = true := by
  unfold State.setPixel
  split
  · exact Memory.wf_storeBytes 2 h _ (by assumption)
  · exact h

/-- A byte of VRAM after a pixel write. -/
theorem State.vramByte_setPixel (s : State) (h : s.vram.wf Config.vramSize = true) (x y : Nat) (v : Half)
    (hk : pixelOffset x y + 2 ≤ Config.vramSize) (j : Nat) :
    (s.setPixel x y v).vramByte j =
      if pixelOffset x y ≤ j ∧ j < pixelOffset x y + 2 then
        (v.setWidth 32 : Word).extractLsb' (8 * (j - pixelOffset x y)) 8
      else s.vramByte j := by
  have e : s.setPixel x y v = { s with vram := s.vram.storeBytes (pixelOffset x y) 2 (v.setWidth 32) } := if_pos hk
  rw [e]
  simp only [State.vramByte]
  by_cases hj : pixelOffset x y ≤ j ∧ j < pixelOffset x y + 2
  · rw [if_pos hj, if_pos (by omega), Memory.lookup_storeBytes 2 h _ _ hk, if_pos hj]; rfl
  · rw [if_neg hj, Memory.lookup_storeBytes 2 h _ _ hk, if_neg hj]

end Machine
end Sys2Proof
end

