-- ==== Sys2Proof/Laws/Frames.lean ====
section
/-! SUPPORT. What each device operation can change: the GPU, the CD-ROM, the timers, the DMA controller, then every read and
write of the interconnect and the device advance. -/

namespace Sys2Proof
namespace Machine

open Safety

/-! ## `readOnly` and `devicesOnly` are preorders -/

theorem readOnly_refl (s : State) : readOnly s s := rfl

theorem readOnly_trans {s t u : State} (h : readOnly s t) (k : readOnly t u) : readOnly s u := by
  unfold readOnly at *; rw [k, h]

theorem devicesOnly_refl (s : State) : devicesOnly s s := rfl

theorem devicesOnly_trans {s t u : State} (h : devicesOnly s t) (k : devicesOnly t u) : devicesOnly s u := by
  unfold devicesOnly at *; rw [k, h]

theorem devicesOnly_of_readOnly {s t : State} (h : readOnly s t) : devicesOnly s t := by
  unfold readOnly devicesOnly at *; rw [h]

/-! ## GPU -/

/-- `t` differs from `s` at most in the GPU's registers, VRAM, the trace and the count of free values. -/
def gpuOnly (s t : State) : Prop :=
  t = { s with gpu := t.gpu, vram := t.vram, trace := t.trace, freeCount := t.freeCount }

theorem gpuOnly_refl (s : State) : gpuOnly s s := rfl

theorem gpuOnly_trans {s t u : State} (h : gpuOnly s t) (k : gpuOnly t u) : gpuOnly s u := by
  unfold gpuOnly at *; rw [k, h]

theorem gpuOnly_setGpu (s : State) (g : Gpu) : gpuOnly s (s.setGpu g) := rfl

theorem gpuOnly_emit (s : State) (e : Event) : gpuOnly s (s.emit e) := rfl

theorem gpuOnly_setPixel (s : State) (x y : Nat) (v : Half) : gpuOnly s (s.setPixel x y v) := by
  unfold State.setPixel; split <;> rfl

theorem gpuOnly_loadPixel (s : State) (h : Half) : gpuOnly s (s.loadPixel h) := by
  unfold State.loadPixel
  dsimp only
  split
  · exact gpuOnly_trans (gpuOnly_setPixel s _ _ h) (gpuOnly_setGpu _ _)
  · rfl

theorem gpuOnly_loadWord (s : State) (d : Word) : gpuOnly s (s.loadWord d) :=
  gpuOnly_trans (gpuOnly_trans (gpuOnly_loadPixel s _) (gpuOnly_loadPixel _ _)) (gpuOnly_setGpu _ _)

theorem gpuOnly_emitQuad (s : State) (p0 p1 p2 p3 : Vertex) (c0 c1 c2 c3 : Colour) :
    gpuOnly s (s.emitQuad p0 p1 p2 p3 c0 c1 c2 c3) := rfl

theorem gpuOnly_gp0DrawOffset (s : State) (v : Word) : gpuOnly s (s.gp0DrawOffset v) := rfl

theorem gpuOnly_gp0Run (s : State) : gpuOnly s s.gp0Run := by
  unfold State.gp0Run
  generalize s.gpu.cmdOpcode = op
  split
  · exact gpuOnly_emitQuad s _ _ _ _ _ _ _ _
  · exact gpuOnly_emitQuad s _ _ _ _ _ _ _ _
  · exact gpuOnly_emit s _
  · exact gpuOnly_emitQuad s _ _ _ _ _ _ _ _
  · exact gpuOnly_setGpu s _
  · exact gpuOnly_setGpu s _
  · exact gpuOnly_setGpu s _
  · exact gpuOnly_setGpu s _
  · exact gpuOnly_setGpu s _
  · exact gpuOnly_setGpu s _
  · exact gpuOnly_gp0DrawOffset s _
  · exact gpuOnly_setGpu s _
  · exact gpuOnly_refl s

theorem gpuOnly_gp0Accept (s : State) (w : Word) : gpuOnly s (s.gp0Accept w) := by
  unfold State.gp0Accept
  dsimp only
  split
  · exact gpuOnly_trans (gpuOnly_setGpu s _) (gpuOnly_gp0Run _)
  · rfl

/-- A GP0 word changes the GPU, VRAM and the trace at most. -/
theorem gpuOnly_gp0Write {s t : State} {w : Word} (h : s.gp0Write w = .next t) : gpuOnly s t := by
  unfold State.gp0Write at h
  split at h
  · split at h
    · split at h
      · cases h
      · cases h; exact gpuOnly_trans (gpuOnly_setGpu s _) (gpuOnly_gp0Accept _ _)
    · cases h; exact gpuOnly_gp0Accept s w
  · cases h; exact gpuOnly_loadWord s w
  · cases h

theorem gpuOnly_gp1Write {s t : State} {w : Word} (h : s.gp1Write w = .next t) : gpuOnly s t := by
  unfold State.gp1Write at h
  split at h
  · cases h; rfl
  · cases h

theorem nextPixel_eq (s : State) : s.nextPixel.2 = { s with gpu := s.nextPixel.2.gpu } := by
  unfold State.nextPixel; dsimp only; split <;> rfl

/-- A GPUREAD read changes the GPU's record and mode, or counts a free value. -/
theorem gpuRead_eq (s : State) :
    s.gpuRead.2 = { s with gpu := s.gpuRead.2.gpu, freeCount := s.gpuRead.2.freeCount } := by
  unfold State.gpuRead
  split
  · simp only [State.setGpu]; rw [nextPixel_eq s.nextPixel.2, nextPixel_eq s]
  · rfl
  · rfl

/-! ## CD-ROM -/

/-- `t` differs from `s` at most in the CD-ROM controller and I_STAT. -/
def cdOnly (s t : State) : Prop := t = { s with cd := t.cd, iStat := t.iStat }

theorem cdOnly_refl (s : State) : cdOnly s s := rfl

theorem cdOnly_trans {s t u : State} (h : cdOnly s t) (k : cdOnly t u) : cdOnly s u := by
  unfold cdOnly at *; rw [k, h]

theorem cdOnly_setCd (s : State) (c : Cdrom) : cdOnly s (s.setCd c) := rfl

theorem cdOnly_cdTrigger (s : State) (code : Nat) : cdOnly s (s.cdTrigger code) := by
  unfold State.cdTrigger; dsimp only; split <;> rfl

theorem cdOnly_cdRespond (s : State) (code : Nat) (bytes : List Byte) : cdOnly s (s.cdRespond code bytes) :=
  cdOnly_trans (cdOnly_setCd s _) (cdOnly_cdTrigger _ _)

theorem cdOnly_cdFail (s : State) (e : Byte) (pad : Nat) : cdOnly s (s.cdFail e pad) :=
  cdOnly_trans (cdOnly_trans (cdOnly_setCd s _) (cdOnly_cdRespond _ _ _)) (cdOnly_setCd _ _)

theorem cdOnly_cdComplete (s : State) (bytes : List Byte) : cdOnly s (s.cdComplete bytes) :=
  cdOnly_trans (cdOnly_cdRespond s _ _) (cdOnly_setCd _ _)

theorem cdOnly_cdDispatch (s : State) (c : Byte) : cdOnly s (s.cdDispatch c) := by
  unfold State.cdDispatch
  split
  · rfl
  · unfold State.cdSetLoc; split
    · exact cdOnly_trans (cdOnly_setCd s _) (cdOnly_cdComplete _ _)
    · exact cdOnly_cdFail s _ _
  · unfold State.cdReadN; split
    · rfl
    · exact cdOnly_cdFail s _ _
  · exact cdOnly_trans (cdOnly_setCd s _) (cdOnly_cdComplete _ _)
  · exact cdOnly_trans (cdOnly_setCd s _) (cdOnly_cdComplete _ _)
  · exact cdOnly_trans (cdOnly_setCd s _) (cdOnly_cdComplete _ _)
  · unfold State.cdSetMode; split
    · exact cdOnly_cdFail s _ _
    · exact cdOnly_trans (cdOnly_setCd s _) (cdOnly_cdComplete _ _)
  · rfl
  · unfold State.cdTest; split
    · exact cdOnly_cdFail s _ _
    · split
      · exact cdOnly_cdComplete s _
      · exact cdOnly_cdFail s _ _
  · rfl
  · exact cdOnly_cdFail s _ _

theorem cdOnly_cdCommand (s : State) (c : Byte) : cdOnly s (s.cdCommand c) :=
  cdOnly_trans (cdOnly_trans (cdOnly_trans (cdOnly_setCd s _) (cdOnly_cdRespond _ _ _)) (cdOnly_cdDispatch _ _))
    (cdOnly_setCd _ _)

theorem cdOnly_cdConclude (s : State) (p : Byte) : cdOnly s (s.cdConclude p) := by
  unfold State.cdConclude
  refine cdOnly_trans ?_ (cdOnly_setCd _ _)
  split
  · unfold State.cdConcludeReadN; split
    · exact cdOnly_cdFail s _ _
    · exact cdOnly_trans (cdOnly_trans (cdOnly_trans (cdOnly_trans (cdOnly_setCd s _) (cdOnly_cdRespond _ _ _))
        (cdOnly_setCd _ _)) (cdOnly_cdRespond _ _ _)) (cdOnly_setCd _ _)
  · exact cdOnly_cdComplete s _
  · unfold State.cdConcludeGetId; split
    · exact cdOnly_cdComplete s _
    · exact cdOnly_cdFail s _ _
  · rfl

theorem cdOnly_cdAdvance (s : State) (cycles : Nat) : cdOnly s (s.cdAdvance cycles) := by
  unfold State.cdAdvance
  split
  · rfl
  · split
    · exact cdOnly_trans (cdOnly_setCd s _) (cdOnly_cdConclude _ _)
    · rfl

theorem cdOnly_cdWrite (s : State) (off : Nat) (v : Byte) : cdOnly s (s.cdWrite off v) := by
  unfold State.cdWrite
  split <;> first | rfl | exact cdOnly_cdCommand s v

theorem cdPopData_eq (s : State) : s.cdPopData.2 = { s with cd := s.cdPopData.2.cd } := by
  unfold State.cdPopData; split <;> rfl

theorem cdPopWord_eq (s : State) : s.cdPopWord.2 = { s with cd := s.cdPopWord.2.cd } := by
  simp only [State.cdPopWord]
  rw [cdPopData_eq s.cdPopData.2.cdPopData.2.cdPopData.2, cdPopData_eq s.cdPopData.2.cdPopData.2,
    cdPopData_eq s.cdPopData.2, cdPopData_eq s]

theorem cdRead_eq (s : State) (off : Nat) : (s.cdRead off).2 = { s with cd := (s.cdRead off).2.cd } := by
  unfold State.cdRead
  split
  · rfl
  · unfold State.cdPopResponse; split <;> rfl
  · exact cdPopData_eq s
  · rfl
  · rfl

/-! ## Timers -/

/-- `t` differs from `s` at most in the timers and I_STAT. -/
def timersOnly (s t : State) : Prop := t = { s with timers := t.timers, iStat := t.iStat }

theorem timersOnly_refl (s : State) : timersOnly s s := rfl

theorem timersOnly_trans {s t u : State} (h : timersOnly s t) (k : timersOnly t u) : timersOnly s u := by
  unfold timersOnly at *; rw [k, h]

theorem timersOnly_setTimer (s : State) (i : Fin 3) (t : Timer) : timersOnly s (s.setTimer i t) := rfl

theorem timersOnly_timerEvent (s : State) (i : Fin 3) (k : TimerEvent) : timersOnly s (s.timerEvent i k) := by
  unfold State.timerEvent; dsimp only; split <;> rfl

theorem timersOnly_timerCount (s : State) (i : Fin 3) : timersOnly s (s.timerCount i) := by
  unfold State.timerCount
  dsimp only
  split
  · exact timersOnly_trans (timersOnly_setTimer s _ _) (timersOnly_timerEvent _ _ _)
  · rfl

theorem timersOnly_timerMeetTarget (s : State) (i : Fin 3) : timersOnly s (s.timerMeetTarget i) := by
  unfold State.timerMeetTarget
  dsimp only
  split
  · split
    · exact timersOnly_trans (timersOnly_trans (timersOnly_setTimer s _ _) (timersOnly_timerEvent _ _ _))
        (timersOnly_setTimer _ _ _)
    · exact timersOnly_trans (timersOnly_setTimer s _ _) (timersOnly_timerEvent _ _ _)
  · rfl

theorem timersOnly_timerTick (s : State) (i : Fin 3) : timersOnly s (s.timerTick i) :=
  timersOnly_trans (timersOnly_timerCount s i) (timersOnly_timerMeetTarget _ i)

theorem timersOnly_timerTicks (n : Nat) (i : Fin 3) (s : State) : timersOnly s (State.timerTicks n i s) := by
  induction n generalizing s with
  | zero => rfl
  | succ n ih => exact timersOnly_trans (timersOnly_timerTick s i) (ih _)

theorem timersOnly_advanceTimer (s : State) (i : Fin 3) (cycles : Nat) : timersOnly s (s.advanceTimer i cycles) :=
  timersOnly_trans (timersOnly_setTimer s _ _) (timersOnly_timerTicks _ _ _)

theorem timersOnly_advanceTimers (s : State) (cycles : Nat) : timersOnly s (s.advanceTimers cycles) :=
  timersOnly_trans (timersOnly_trans (timersOnly_advanceTimer s _ _) (timersOnly_advanceTimer _ _ _))
    (timersOnly_advanceTimer _ _ _)

theorem timersOnly_timerWrite (s : State) (off : Nat) (v : Word) : timersOnly s (s.timerWrite off v) := by
  unfold State.timerWrite
  split
  · rfl
  · split <;> rfl

/-! ## DMA -/

/-- `t` differs from `s` at most in what a DMA transfer can reach: RAM, the GPU's side, the CD-ROM's buffer. -/
def transferOnly (s t : State) : Prop :=
  t = { s with ram := t.ram, vram := t.vram, cd := t.cd, gpu := t.gpu, trace := t.trace, freeCount := t.freeCount }

theorem transferOnly_refl (s : State) : transferOnly s s := rfl

theorem transferOnly_trans {s t u : State} (h : transferOnly s t) (k : transferOnly t u) : transferOnly s u := by
  unfold transferOnly at *; rw [k, h]

theorem transferOnly_of_gpuOnly {s t : State} (h : gpuOnly s t) : transferOnly s t := by
  unfold gpuOnly transferOnly at *; rw [h]

theorem transferOnly_ramWrite (s : State) (k n : Nat) (v : Word) : transferOnly s (s.ramWrite k n v) := by
  unfold State.ramWrite; split <;> rfl

theorem transferOnly_dmaPortRead (s : State) (n : Fin 7) (a : Word) (last : Bool) :
    transferOnly s (s.dmaPortRead n a last).2 := by
  unfold State.dmaPortRead transferOnly
  split
  · rw [gpuRead_eq]
  · rw [cdPopWord_eq]
  · rfl

theorem transferOnly_dmaMoveToRam (n : Fin 7) (dec : Bool) (count : Nat) (a : Word) (s : State) :
    transferOnly s (dmaMoveToRam n dec count a s) := by
  induction count generalizing a s with
  | zero => rfl
  | succ c ih =>
    exact transferOnly_trans (transferOnly_trans (transferOnly_dmaPortRead s n a (c == 0)) (transferOnly_ramWrite _ _ _ _))
      (ih _ _)

/-- Words sent from RAM to GP0 change the GPU's side only. -/
theorem gpuOnly_dmaMoveToGp0 (dec : Bool) (count : Nat) (a : Word) (s : State) {t : State}
    (h : dmaMoveToGp0 dec count a s = .next t) : gpuOnly s t := by
  induction count generalizing a s with
  | zero => cases h; rfl
  | succ c ih =>
    obtain ⟨u, h1, h2⟩ := andThen_eq_next h
    exact gpuOnly_trans (gpuOnly_gp0Write h1) (ih _ _ h2)

theorem gpuOnly_dmaPayload (count : Nat) (a : Word) (s : State) {t : State} (h : dmaPayload count a s = .next t) :
    gpuOnly s t := by
  induction count generalizing a s with
  | zero => cases h; rfl
  | succ c ih =>
    obtain ⟨u, h1, h2⟩ := andThen_eq_next h
    exact gpuOnly_trans (gpuOnly_gp0Write h1) (ih _ _ h2)

theorem gpuOnly_dmaLinkedList (limit : Nat) (a : Word) (s : State) {t : State}
    (h : dmaLinkedList limit a s = .next t) : gpuOnly s t := by
  induction limit generalizing a s with
  | zero => cases h
  | succ l ih =>
    obtain ⟨u, h1, h2⟩ := andThen_eq_next h
    refine gpuOnly_trans (gpuOnly_dmaPayload _ _ _ h1) ?_
    split at h2
    · cases h2; rfl
    · exact ih _ _ h2

theorem transferOnly_dmaMove {s t : State} {n : Fin 7} {count : Nat} (h : s.dmaMove n count = .next t) :
    transferOnly s t := by
  unfold State.dmaMove at h
  dsimp only at h
  split at h
  · exact transferOnly_of_gpuOnly (gpuOnly_dmaMoveToGp0 _ _ _ _ h)
  · cases h; exact transferOnly_dmaMoveToRam _ _ _ _ _

/-- A whole transfer leaves the DMA registers and everything but RAM, the GPU's side and the CD-ROM's buffer. -/
theorem transferOnly_dmaRun {s t : State} {n : Fin 7} (h : s.dmaRun n = .next t) : transferOnly s t := by
  unfold State.dmaRun at h
  dsimp only at h
  split at h
  · cases h
  · split at h
    · exact transferOnly_dmaMove h
    · exact transferOnly_dmaMove h
    · exact transferOnly_of_gpuOnly (gpuOnly_dmaLinkedList _ _ _ h)

/-- `t` differs from `s` at most in what a DMA register write can reach. -/
def dmaOnly (s t : State) : Prop :=
  t = { s with
    iStat := t.iStat, ram := t.ram, vram := t.vram, dma := t.dma, cd := t.cd, gpu := t.gpu, trace := t.trace,
    freeCount := t.freeCount }

theorem dmaOnly_trans {s t u : State} (h : dmaOnly s t) (k : dmaOnly t u) : dmaOnly s u := by
  unfold dmaOnly at *; rw [k, h]

theorem dmaOnly_of_transferOnly {s t : State} (h : transferOnly s t) : dmaOnly s t := by
  unfold transferOnly dmaOnly at *; rw [h]

theorem dmaOnly_dmaUpdateMaster (s : State) (d : Word) : dmaOnly s (s.dmaUpdateMaster d) := by
  unfold State.dmaUpdateMaster; dsimp only; split <;> rfl

theorem dmaOnly_dmaComplete (s : State) (n : Fin 7) : dmaOnly s (s.dmaComplete n) :=
  dmaOnly_trans (rfl : dmaOnly s (s.setDmaChannel n _)) (dmaOnly_dmaUpdateMaster _ _)

theorem dmaOnly_writeChcr {s t : State} {n : Fin 7} {v : Word} (h : s.writeChcr n v = .next t) : dmaOnly s t := by
  unfold State.writeChcr at h
  dsimp only at h
  split at h
  · obtain ⟨u, h1, h2⟩ := andThen_eq_next h
    cases h2
    exact dmaOnly_trans (dmaOnly_trans (rfl : dmaOnly s (s.setDmaChannel n _))
      (dmaOnly_of_transferOnly (transferOnly_dmaRun h1))) (dmaOnly_dmaComplete _ _)
  · cases h; rfl

theorem dmaOnly_dmaWrite {s t : State} {off : Nat} {v : Word} (h : s.dmaWrite off v = .next t) : dmaOnly s t := by
  unfold State.dmaWrite at h
  split at h
  · split at h
    · cases h; rfl
    · cases h; rfl
    · exact dmaOnly_writeChcr h
    · cases h; rfl
  · split at h
    · cases h; rfl
    · cases h; exact dmaOnly_dmaUpdateMaster _ _
    · cases h; rfl

/-! ## The interconnect -/

/-- Everything a read can change (20_memory R100). -/
theorem readOnly_memRead (s : State) (a : Word) (n : Width) : readOnly s (s.memRead a n).2 := by
  unfold State.memRead
  split
  · unfold State.deviceRead
    split <;> (try rfl)
    · split
      · unfold readOnly; rw [cdRead_eq]
      · rfl
    · split
      · unfold readOnly; rw [gpuRead_eq]
      · rfl
  · rfl

/-- Everything a write can change. -/
theorem devicesOnly_memWrite {s t : State} {a v : Word} {n : Width} (h : s.memWrite a n v = .next t) :
    devicesOnly s t := by
  unfold State.memWrite at h
  split at h
  · cases h; rfl
  · split at h
    · unfold State.deviceWrite at h
      split at h
      · cases h; unfold State.ramWrite; split <;> rfl
      · cases h; rfl
      · cases h; rfl
      · cases h; rfl
      · cases h; split <;> rfl
      · cases h; split <;> rfl
      · split at h
        · have := dmaOnly_dmaWrite h; unfold dmaOnly at this; unfold devicesOnly; rw [this]
        · cases h; rfl
      · cases h; split
        · rfl
        · have := timersOnly_timerWrite s ‹Nat› v; unfold timersOnly at this; unfold devicesOnly; rw [this]
      · cases h; split
        · have := cdOnly_cdWrite s ‹Nat› (v.extractLsb' 0 8); unfold cdOnly at this; unfold devicesOnly; rw [this]
        · rfl
      · split at h
        · have := gpuOnly_gp0Write h; unfold gpuOnly at this; unfold devicesOnly; rw [this]
        · cases h; rfl
      · split at h
        · have := gpuOnly_gp1Write h; unfold gpuOnly at this; unfold devicesOnly; rw [this]
        · cases h; rfl
      · cases h; rfl
    · cases h; rfl

/-- The device advance moves the CD-ROM, the timers and I_STAT. -/
theorem devicesOnly_advanceDevices (s : State) (cycles : Nat) : devicesOnly s (s.advanceDevices cycles) := by
  have h1 := cdOnly_cdAdvance s cycles
  have h2 := timersOnly_advanceTimers (s.cdAdvance cycles) cycles
  unfold cdOnly at h1
  unfold timersOnly at h2
  unfold devicesOnly State.advanceDevices
  rw [h2, h1]

end Machine
end Sys2Proof
end

