-- ==== Sys2Proof/Laws/Cdrom.lean ====
section
/-! SUPPORT. The CD-ROM controller: what responses, failures and completions leave. -/

namespace Sys2Proof
namespace Machine

/-- The controller after a trigger (63_cdrom R425). -/
theorem cd_cdTrigger (s : State) (code : Nat) :
    (s.cdTrigger code).cd = { s.cd with irqFlags := s.cd.irqFlags ||| cdFlag code } := by
  unfold State.cdTrigger; dsimp only; split <;> rfl

/-- The interrupt latches after a trigger (63_cdrom R425). -/
theorem iStat_cdTrigger (s : State) (code : Nat) :
    (s.cdTrigger code).iStat = if (s.cd.irqEnable &&& cdFlag code) != 0 then s.iStat ||| 0x004 else s.iStat := by
  unfold State.cdTrigger; dsimp only; split <;> rfl

/-- The controller after a response (63_cdrom R426). -/
theorem cd_cdRespond (s : State) (code : Nat) (bytes : List Byte) :
    (s.cdRespond code bytes).cd =
      { s.cd with responseFifo := bytes.take 16, irqFlags := s.cd.irqFlags ||| cdFlag code } := by
  unfold State.cdRespond; rw [cd_cdTrigger]; rfl

theorem iStat_cdRespond (s : State) (code : Nat) (bytes : List Byte) :
    (s.cdRespond code bytes).iStat =
      if (s.cd.irqEnable &&& cdFlag code) != 0 then s.iStat ||| 0x004 else s.iStat :=
  iStat_cdTrigger _ code

/-- The controller after a failure (63_cdrom R427). -/
theorem cd_cdFail (s : State) (e : Byte) (pad : Nat) :
    (s.cdFail e pad).cd = { s.cd with
      cdError := true, responseFifo := ([({ s.cd with cdError := true }).stat, e] ++ List.replicate pad 0).take 16,
      irqFlags := s.cd.irqFlags ||| 0x10#5, cdState := .error, busy := false, pendingCmd := 0, delay := 0 } := by
  unfold State.cdFail
  dsimp only
  show ({ (State.cdRespond _ _ _).cd with cdState := .error, busy := false, pendingCmd := 0, delay := 0 } : Cdrom) = _
  rw [cd_cdRespond]
  rfl

/-- The controller after a command's conclusion. -/
theorem cd_cdComplete (s : State) (bytes : List Byte) :
    (s.cdComplete bytes).cd = { s.cd with
      responseFifo := bytes.take 16, irqFlags := s.cd.irqFlags ||| 0x02#5, busy := false, cdState := .idle } := by
  unfold State.cdComplete
  dsimp only
  show ({ (State.cdRespond _ _ _).cd with busy := false, cdState := .idle } : Cdrom) = _
  rw [cd_cdRespond]
  rfl

/-- The state after the acknowledge that opens every command (63_cdrom R428). -/
theorem cd_acknowledged (s : State) :
    ((s.setCd { s.cd with delay := 0, pendingCmd := 0, cdError := false, busy := true, cdState := .cmdExec }).cdRespond 3
        [({ s.cd with delay := 0, pendingCmd := 0, cdError := false, busy := true, cdState := .cmdExec } : Cdrom).stat]).cd =
      { s.cd with
        delay := 0, pendingCmd := 0, cdError := false, busy := true, cdState := .cmdExec,
        responseFifo :=
          [({ s.cd with delay := 0, pendingCmd := 0, cdError := false, busy := true, cdState := .cmdExec } : Cdrom).stat],
        irqFlags := s.cd.irqFlags ||| 0x04#5 } := by
  rw [cd_cdRespond]; rfl

end Machine
end Sys2Proof
end

