-- ==== Sys2Proof/Laws/Interconnect.lean ====
section
/-! SUPPORT. Translation, the device map, and accesses to main RAM. -/

namespace Sys2Proof
namespace Machine

/-! ## The device map -/

/-- A row of the map contains a physical address. -/
def MapRow.holds (r : MapRow) (p : Nat) : Bool := decide (r.first ≤ p) && decide (p ≤ r.last)

/-- In a list of rows that rise, the row that holds an address is the one that is found. -/
theorem find_of_rising {rows : List MapRow} (hr : rows.Pairwise fun a b => a.last < b.first) {r : MapRow}
    (hm : r ∈ rows) {p : Nat} (h1 : r.first ≤ p) (h2 : p ≤ r.last) : rows.find? (fun q => q.holds p) = some r := by
  induction rows with
  | nil => cases hm
  | cons a rest ih =>
    rw [List.pairwise_cons] at hr
    rcases List.mem_cons.1 hm with rfl | hm'
    · rw [List.find?_cons_of_pos]
      simp [MapRow.holds, h1, h2]
    · have h3 := hr.1 r hm'
      rw [List.find?_cons_of_neg, ih hr.2 hm']
      simp only [MapRow.holds, Bool.and_eq_true, decide_eq_true_eq, not_and]
      omega

/-- The ranges of the device map rise and so do not overlap (20_memory R82). -/
theorem deviceMap_rises : deviceMap.Pairwise fun a b => a.last < b.first := by decide

/-- A physical address inside a row of the map belongs to that row's device. -/
theorem deviceAt_of_row {p : Word} {lo hi : Nat} {d : Device}
    (hm : ({ first := lo, last := hi, device := d } : MapRow) ∈ deviceMap) (h1 : lo ≤ p.toNat) (h2 : p.toNat ≤ hi) :
    deviceAt p = some (d, p.toNat - lo) := by
  have := find_of_rising deviceMap_rises hm h1 h2
  unfold MapRow.holds at this
  unfold deviceAt
  rw [this]

/-- A physical address in no row of the map belongs to no device. -/
theorem deviceAt_none {p : Word} (h : ∀ r ∈ deviceMap, ¬(r.first ≤ p.toNat ∧ p.toNat ≤ r.last)) : deviceAt p = none := by
  have : deviceMap.find? (fun r => decide (r.first ≤ p.toNat) && decide (p.toNat ≤ r.last)) = none := by
    rw [List.find?_eq_none]
    intro r hr
    simpa using h r hr
  unfold deviceAt
  rw [this]

/-! ## Translation -/

/-- Translation in plain arithmetic (20_memory R72). -/
theorem toNat_translate (a : Word) :
    (Machine.translate a).toNat =
      if a.toNat < 0x80000000 then a.toNat
      else if a.toNat < 0xA0000000 then a.toNat - 0x80000000
      else if a.toNat < 0xC0000000 then a.toNat - 0xA0000000 else a.toNat := by
  have e : a.extractLsb' 29 3 = BitVec.ofNat 3 (a.toNat / 2 ^ 29) := by
    apply BitVec.eq_of_toNat_eq; simp [Nat.shiftRight_eq_div_pow]
  have ha := a.isLt
  unfold Machine.translate
  split
  · rename_i hq
    rw [e] at hq
    have h4 := congrArg BitVec.toNat hq
    simp at h4
    have e := Nat.and_two_pow_sub_one_eq_mod a.toNat 31
    simp [BitVec.toNat_and]
    norm_num at e
    rw [if_neg (by omega), if_pos (by omega)]
    omega
  · rename_i hq
    rw [e] at hq
    have h5 := congrArg BitVec.toNat hq
    simp at h5
    have e := Nat.and_two_pow_sub_one_eq_mod a.toNat 29
    simp [BitVec.toNat_and]
    norm_num at e
    rw [if_neg (by omega), if_neg (by omega), if_pos (by omega)]
    omega
  · rename_i h1 h2
    have h1' : a.toNat / 2 ^ 29 ≠ 4 := fun hc => h1 (by rw [e, hc])
    have h2' : a.toNat / 2 ^ 29 ≠ 5 := fun hc => h2 (by rw [e, hc])
    split
    · rfl
    · rw [if_neg (by omega), if_neg (by omega)]

/-! ## Bytes and words -/

theorem readBytes_one (f : Nat → Byte) (k : Nat) : readBytes f k 1 = (f k).setWidth 32 := by simp [readBytes]

/-- Two bytes, little-endian (20_memory R75). -/
theorem readBytes_two (f : Nat → Byte) (k : Nat) : readBytes f k 2 = (f (k + 1) ++ f k).setWidth 32 := by
  simp only [readBytes]
  apply BitVec.eq_of_getLsbD_eq
  intro i hi
  simp only [BitVec.getLsbD_or, BitVec.getLsbD_setWidth, BitVec.getLsbD_shiftLeft, BitVec.getLsbD_append, hi]
  by_cases h : i < 8
  · simp [h]
  · simp [h]
    rw [BitVec.getLsbD_of_ge _ i (by omega)]
    simp
    intro h
    omega

/-- Four bytes, little-endian (20_memory R75). -/
theorem readBytes_four (f : Nat → Byte) (k : Nat) : readBytes f k 4 = f (k + 3) ++ f (k + 2) ++ f (k + 1) ++ f k := by
  simp only [readBytes]
  apply BitVec.eq_of_getLsbD_eq
  intro i hi
  simp only [BitVec.getLsbD_or, BitVec.getLsbD_setWidth, BitVec.getLsbD_shiftLeft, BitVec.getLsbD_append, hi]
  by_cases h : i < 8
  · simp [h]
  · have d1 : i - 8 < 32 := by omega
    by_cases h2 : i < 16
    · simp [h]
      rw [BitVec.getLsbD_of_ge _ i (by omega)]
      have : i - 8 < 8 := by omega
      simp [this]
      intro h
      omega
    · have d2 : i - 8 - 8 < 32 := by omega
      have e1 : ¬ (i - 8 < 8) := by omega
      by_cases h3 : i < 24
      · have e2 : i - 8 - 8 < 8 := by omega
        simp [h, e1, e2]
        rw [BitVec.getLsbD_of_ge _ i (by omega), BitVec.getLsbD_of_ge _ (i - 8) (by omega)]
        simp [d1, d2]
      · have e2 : ¬ (i - 8 - 8 < 8) := by omega
        have e3 : i - 8 - 8 - 8 < 8 := by omega
        have d3 : i - 8 - 8 - 8 < 32 := by omega
        simp [h, e1, e2, e3]
        rw [BitVec.getLsbD_of_ge _ i (by omega), BitVec.getLsbD_of_ge _ (i - 8) (by omega),
          BitVec.getLsbD_of_ge _ (i - 8 - 8) (by omega)]
        simp [d1, d2, d3]

/-! ## Main RAM through the interconnect -/

/-- An address of main RAM selects main RAM at its offset (20_memory R82). -/
theorem deviceAt_ram {a : Word} {k : Nat} (h : Safety.ramAddress a k) :
    deviceAt (Machine.translate a) = some (.ram, k) := by
  obtain ⟨h1, h2⟩ := h
  rw [deviceAt_of_row (lo := 0) (hi := 0x001FFFFF) (d := .ram) (by decide) (by omega) (by omega), h1]; rfl

/-- A read of main RAM (20_memory R83). -/
theorem memRead_ram (s : State) {a : Word} {k : Nat} (h : Safety.ramAddress a k) (n : Width) :
    s.memRead a n = (s.ramRead k n.bytes, s) := by
  unfold State.memRead; rw [deviceAt_ram h]; rfl

/-- A write of main RAM with the cache not isolated (20_memory R83). -/
theorem memWrite_ram (s : State) {a : Word} {k : Nat} (h : Safety.ramAddress a k) (hi : s.sr.getLsbD 16 = false)
    (n : Width) (v : Word) : s.memWrite a n v = .next (s.ramWrite k n.bytes v) := by
  unfold State.memWrite
  rw [if_neg (by show ¬ (s.sr.getLsbD 16 = true); rw [hi]; decide), deviceAt_ram h]
  rfl

/-- A store while the cache is isolated (20_memory R113). -/
theorem memWrite_isolated (s : State) (h : s.sr.getLsbD 16 = true) (a : Word) (n : Width) (v : Word) :
    s.memWrite a n v = .next s := if_pos h

/-- A store with the cache not isolated goes to the device whose range holds the address. -/
theorem memWrite_device (s : State) (hi : s.sr.getLsbD 16 = false) {a : Word} {d : Device} {off : Nat}
    (h : deviceAt (Machine.translate a) = some (d, off)) (n : Width) (v : Word) :
    s.memWrite a n v = s.deviceWrite d off n v := by
  unfold State.memWrite
  rw [if_neg (by show ¬ (s.sr.getLsbD 16 = true); rw [hi]; decide), h]

/-- A read goes to the device whose range holds the address. -/
theorem memRead_device (s : State) {a : Word} {d : Device} {off : Nat}
    (h : deviceAt (Machine.translate a) = some (d, off)) (n : Width) : s.memRead a n = s.deviceRead d off n := by
  unfold State.memRead; rw [h]

end Machine
end Sys2Proof
end

