-- ==== Sys2Proof/Laws/Dma.lean ====
section
/-! SUPPORT. The DMA controller's registers: channels, DICR and its master flag, completion, and the block in the device map. -/

namespace Sys2Proof
namespace Machine

/-! ## Channels -/

theorem dmaChannel_setDmaChannel (s : State) (n : Fin 7) (c : DmaChannel) (m : Fin 7) :
    (s.setDmaChannel n c).dmaChannel m = if m = n then c else s.dmaChannel m := by
  unfold State.setDmaChannel State.dmaChannel
  dsimp only
  by_cases h : m = n
  · subst h; simp
  · rw [if_neg h]
    simp
    rw [Vector.getElem_set_ne]
    exact fun h' => h (Fin.ext h'.symm)

/-- A channel is active (61_dma R344). -/
theorem chcrActive_iff (v : Word) :
    chcrActive v = true ↔ v.getLsbD 24 = true ∧ (v.extractLsb' 9 2 ≠ 0 ∨ v.getLsbD 28 = true) := by
  simp [chcrActive, chcrSync, testBit]

theorem chcrDone_eq (v : Word) : chcrDone v = v &&& 0xEEFFFFFF := by
  unfold chcrDone
  apply BitVec.eq_of_getLsbD_eq
  intro i hi
  rw [getLsbD_setBit _ _ _ (by omega), getLsbD_setBit _ _ _ (by omega), BitVec.getLsbD_and]
  interval_cases i <;> simp

theorem toNat_dmaAddress (a : Word) : (dmaAddress a).toNat = a.toNat % 2 ^ 24 / 4 * 4 := by
  have h : a &&& (0x00FFFFFC : Word) = (a.extractLsb' 2 22).setWidth 32 <<< 2 := by
    apply BitVec.eq_of_getLsbD_eq
    intro i hi
    simp only [BitVec.getLsbD_and, BitVec.getLsbD_shiftLeft, BitVec.getLsbD_setWidth, BitVec.getLsbD_extractLsb']
    interval_cases i <;> simp
  have := a.isLt
  unfold dmaAddress
  rw [h]
  simp [BitVec.toNat_shiftLeft, Nat.shiftLeft_eq, Nat.shiftRight_eq_div_pow]
  omega

/-! ## DICR -/

/-- The master flag's formula, bit by bit (61_dma R348). -/
theorem dicrMaster_iff (d : Word) :
    dicrMaster d = true ↔ d.getLsbD 15 = true ∨
      d.getLsbD 23 = true ∧ ∃ m, m < 7 ∧ d.getLsbD (16 + m) = true ∧ d.getLsbD (24 + m) = true := by
  unfold dicrMaster testBit
  rw [Bool.or_eq_true, Bool.and_eq_true, bne_iff_ne]
  have h : (d.extractLsb' 16 7 &&& d.extractLsb' 24 7 ≠ 0#7) ↔
      ∃ m, m < 7 ∧ d.getLsbD (16 + m) = true ∧ d.getLsbD (24 + m) = true := by
    constructor
    · intro h
      by_contra hc
      apply h
      apply BitVec.eq_of_getLsbD_eq
      intro i hi
      simp only [BitVec.getLsbD_and, BitVec.getLsbD_extractLsb', hi]
      by_contra hk
      apply hc
      refine ⟨i, hi, ?_⟩
      simp at hk
      exact hk
    · rintro ⟨m, hm, h1, h2⟩ hc
      have := congrArg (fun w => BitVec.getLsbD w m) hc
      simp only [BitVec.getLsbD_and, BitVec.getLsbD_extractLsb', hm, h1, h2] at this
      simp at this
  rw [h]

/-- The master flag does not depend on bit 31. -/
theorem dicrMaster_setBit (d : Word) (b : Bool) : dicrMaster (setBit d 31 b) = dicrMaster d := by
  rw [Bool.eq_iff_iff, dicrMaster_iff, dicrMaster_iff]
  simp only [getLsbD_setBit _ _ _ (show 31 < 32 by omega), show ¬ (15 = 31) by omega, show ¬ (23 = 31) by omega, if_false]
  constructor
  · rintro (h | ⟨h, m, hm, h1, h2⟩)
    · exact .inl h
    · rw [if_neg (by omega)] at h1 h2; exact .inr ⟨h, m, hm, h1, h2⟩
  · rintro (h | ⟨h, m, hm, h1, h2⟩)
    · exact .inl h
    · refine .inr ⟨h, m, hm, ?_, ?_⟩ <;> rw [if_neg (by omega)] <;> assumption

/-- The bits of DICR after a write, before the master flag follows (61_dma R347). -/
theorem getLsbD_dicrWritten (d v : Word) (i : Nat) (hi : i < 32) :
    (dicrWritten d v).getLsbD i =
      if i < 6 ∨ i = 15 ∨ 16 ≤ i ∧ i < 24 then v.getLsbD i
      else if 24 ≤ i ∧ i < 31 then d.getLsbD i && !v.getLsbD i else d.getLsbD i := by
  unfold dicrWritten
  dsimp only
  rw [getLsbD_setField _ _ _ (by omega), getLsbD_setField _ _ _ (by omega), getLsbD_setField _ _ _ (by omega),
    getLsbD_setField _ _ _ (by omega)]
  interval_cases i <;> simp

/-- What following the master flag changes (61_dma R348). -/
theorem dmaUpdateMaster_eq (s : State) (d : Word) :
    s.dmaUpdateMaster d = { s with
      dma := { s.dma with dicr := setBit d 31 (dicrMaster d) }
      iStat := if testBit d 31 = false ∧ dicrMaster d = true then s.iStat ||| 0x008 else s.iStat } := by
  unfold State.dmaUpdateMaster
  dsimp only
  by_cases h : testBit d 31 = false ∧ dicrMaster d = true
  · rw [if_pos (by rw [h.1, h.2]; rfl), if_pos h]; rfl
  · rw [if_neg (by simpa using h), if_neg h]

/-- The flag word that completion of channel `n` gives, before the master flag follows (61_dma R360). -/
def dicrCompleted (d : Word) (n : Fin 7) : Word := if testBit d (16 + n) then setBit d (24 + n) true else d

theorem getLsbD_dicrCompleted (d : Word) (n : Fin 7) (i : Nat) :
    (dicrCompleted d n).getLsbD i = (d.getLsbD i || (decide (i = 24 + (n : Nat)) && d.getLsbD (16 + n))) := by
  have hn := n.isLt
  unfold dicrCompleted testBit
  by_cases h : d.getLsbD (16 + n) = true
  · rw [if_pos h, getLsbD_setBit _ _ _ (by omega), h]
    by_cases h2 : i = 24 + n <;> simp [h2]
  · rw [if_neg h]
    simp only [Bool.not_eq_true] at h
    rw [h]
    simp

/-- Completion of channel `n`: its CHCR, then DICR. -/
theorem dmaComplete_eq (s : State) (n : Fin 7) :
    s.dmaComplete n =
      (s.setDmaChannel n { s.dmaChannel n with chcr := chcrDone (s.dmaChannel n).chcr }).dmaUpdateMaster
        (dicrCompleted s.dma.dicr n) := rfl

/-- Following the master flag moves no channel. -/
theorem dmaChannel_dmaUpdateMaster (s : State) (d : Word) (m : Fin 7) :
    (s.dmaUpdateMaster d).dmaChannel m = s.dmaChannel m := by
  rw [dmaUpdateMaster_eq]; rfl

/-! ## Running a transfer -/

theorem dmaRun_refused (s : State) (n : Fin 7) {r : Refusal} (h : dmaRefusal n (s.dmaChannel n).chcr = some r) :
    s.dmaRun n = .refused r := by
  unfold State.dmaRun; simp only [h]

/-- A manual transfer (61_dma R353). -/
theorem dmaRun_manual (s : State) (n : Fin 7) (h : dmaRefusal n (s.dmaChannel n).chcr = none)
    (hs : chcrSync (s.dmaChannel n).chcr = 0#2) : s.dmaRun n = s.dmaMove n (manualCount (s.dmaChannel n).bcr) := by
  unfold State.dmaRun; simp only [h, hs]

/-- A request transfer (61_dma R354). -/
theorem dmaRun_request (s : State) (n : Fin 7) (h : dmaRefusal n (s.dmaChannel n).chcr = none)
    (hs : chcrSync (s.dmaChannel n).chcr = 1#2) : s.dmaRun n = s.dmaMove n (requestCount (s.dmaChannel n).bcr) := by
  unfold State.dmaRun; simp only [h, hs]

/-- A linked-list transfer (61_dma R355). -/
theorem dmaRun_linked (s : State) (n : Fin 7) (h : dmaRefusal n (s.dmaChannel n).chcr = none)
    (hs : chcrSync (s.dmaChannel n).chcr = 2#2) :
    s.dmaRun n = dmaLinkedList packetLimit (dmaAddress ((s.dmaChannel n).madr.setWidth 32)) s := by
  unfold State.dmaRun; simp only [h, hs]; rfl

/-- A move to RAM. -/
theorem dmaMove_toRam (s : State) (n : Fin 7) (count : Nat) (h : chcrFromRam (s.dmaChannel n).chcr = false) :
    s.dmaMove n count = .next (dmaMoveToRam n (chcrDecrement (s.dmaChannel n).chcr) count
      (dmaAddress ((s.dmaChannel n).madr.setWidth 32)) s) := by
  unfold State.dmaMove; simp only [h]; rfl

/-- A move from RAM. -/
theorem dmaMove_fromRam (s : State) (n : Fin 7) (count : Nat) (h : chcrFromRam (s.dmaChannel n).chcr = true) :
    s.dmaMove n count = dmaMoveToGp0 (chcrDecrement (s.dmaChannel n).chcr) count
      (dmaAddress ((s.dmaChannel n).madr.setWidth 32)) s := by
  unfold State.dmaMove; simp only [h]; rfl

/-- A store to CHCR that leaves the channel inactive. -/
theorem writeChcr_inactive (s : State) (n : Fin 7) {v : Word} (h : chcrActive v = false) :
    s.writeChcr n v = .next (s.setDmaChannel n { s.dmaChannel n with chcr := v }) := by
  unfold State.writeChcr; simp only [h]; rfl

/-- A store to CHCR that makes the channel active runs the whole transfer (61_dma R350). -/
theorem writeChcr_active (s : State) (n : Fin 7) {v : Word} (h : chcrActive v = true) :
    s.writeChcr n v =
      andThen ((s.setDmaChannel n { s.dmaChannel n with chcr := v }).dmaRun n) fun t => .next (t.dmaComplete n) := by
  unfold State.writeChcr; simp only [h]; rfl

/-! ## The block in the device map -/

/-- An address of the DMA block selects it (20_memory R82). -/
theorem deviceAt_dma (off : Nat) (h : off < 0x80) :
    deviceAt (Machine.translate (BitVec.ofNat 32 (0x1F801080 + off))) = some (.dma, off) := by
  have e : (Machine.translate (BitVec.ofNat 32 (0x1F801080 + off))).toNat = 0x1F801080 + off := by
    rw [toNat_translate, BitVec.toNat_ofNat, Nat.mod_eq_of_lt (by omega), if_pos (by omega)]
  rw [deviceAt_of_row (lo := 0x1F801080) (hi := 0x1F8010FF) (d := .dma) (by decide) (by omega) (by omega), e,
    Nat.add_sub_cancel_left]

/-- A word store to CHCR of channel `n` (61_dma R341, R350). -/
theorem memWrite_chcr (s : State) (n : Fin 7) (v : Word) (hi : s.sr.getLsbD 16 = false) :
    s.memWrite (BitVec.ofNat 32 (0x1F801088 + 16 * n)) .word v = s.writeChcr n v := by
  have hn := n.isLt
  have h := deviceAt_dma (8 + 16 * n) (by omega)
  rw [show 0x1F801080 + (8 + 16 * (n : Nat)) = 0x1F801088 + 16 * n by omega] at h
  have h1 : (8 + 16 * (n : Nat)) / 16 = n := by omega
  have h2 : (8 + 16 * (n : Nat)) % 16 = 8 := by omega
  rw [memWrite_device s hi h]
  unfold State.deviceWrite
  dsimp only
  rw [if_pos rfl]
  unfold State.dmaWrite dmaChannelIndex
  rw [dif_pos (by omega)]
  rw [h2]
  simp only [h1]

/-! ## Words to GP0 -/

theorem andThen_assoc (r : Result) (f g : State → Result) :
    andThen (andThen r f) g = andThen r (fun s => andThen (f s) g) := by cases r <;> rfl

theorem gp0WriteAll_append (l1 l2 : List Word) (s : State) :
    Safety.gp0WriteAll (l1 ++ l2) s = andThen (Safety.gp0WriteAll l1 s) (Safety.gp0WriteAll l2) := by
  induction l1 generalizing s with
  | nil => rfl
  | cons w l ih =>
    show andThen _ _ = andThen (andThen _ _) _
    rw [andThen_assoc]
    congr 1
    funext u
    exact ih u

theorem dmaRamRead_of_ram_eq {s u : State} (h : u.ram = s.ram) (a : Word) : u.dmaRamRead a = s.dmaRamRead a := by
  unfold State.dmaRamRead State.ramRead
  congr 1
  funext k
  unfold State.ramByte
  rw [h]

theorem ram_of_gpuOnly {s t : State} (h : gpuOnly s t) : t.ram = s.ram := by unfold gpuOnly at h; rw [h]

theorem ramWordsAfter_of_ram_eq {s u : State} (h : u.ram = s.ram) (count : Nat) (a : Word) :
    Safety.ramWordsAfter u count a = Safety.ramWordsAfter s count a := by
  induction count generalizing a with
  | zero => rfl
  | succ c ih => unfold Safety.ramWordsAfter; rw [ih, dmaRamRead_of_ram_eq h]

/-- The payload of a packet is sent to GP0 word by word (61_dma R355). -/
theorem dmaPayload_eq (count : Nat) (a : Word) (s : State) :
    dmaPayload count a s = Safety.gp0WriteAll (Safety.ramWordsAfter s count a) s := by
  induction count generalizing a s with
  | zero => rfl
  | succ c ih =>
    show andThen _ _ = andThen _ _
    cases h : s.gp0Write (s.dmaRamRead (dmaStep false a)) with
    | next u => rw [andThen_next, andThen_next, ih, ramWordsAfter_of_ram_eq (ram_of_gpuOnly (gpuOnly_gp0Write h))]
    | fault e => rfl
    | refused e => rfl

end Machine
end Sys2Proof
end

