-- ==== Sys2Proof/Laws/Ops.lean ====
section
/-! SUPPORT. What the register operations do, said once: reads after writes, the drain, the delayed load. -/

namespace Sys2Proof
namespace Machine

theorem State.x_zero (s : State) : s.x 0 = 0 := by simp [State.x]

theorem State.x_of_regs_eq {s t : State} (h : t.regs = s.regs) (r : Reg) : t.x r = s.x r := by
  simp [State.x, h]

theorem State.x_of_ne_zero (s : State) {r : Reg} (h : r ≠ 0) :
    s.x r = s.regs[r.toNat]'(by have := r.isLt; omega) := if_neg h

/-- Reading a register after a write. -/
theorem State.x_setReg (s : State) (d : Reg) (v : Word) (r : Reg) :
    (s.setReg d v).x r = if r = 0 then 0 else if r = d then v else s.x r := by
  by_cases hr : r = 0
  · rw [if_pos hr, hr, State.x_zero]
  · rw [if_neg hr, State.x_of_ne_zero _ hr, State.x_of_ne_zero _ hr]
    by_cases hd : d = 0
    · rw [if_neg (fun h => hr (h.trans hd))]
      simp only [State.setReg, if_pos hd]
    · simp only [State.setReg, if_neg hd]
      by_cases hrd : r = d
      · subst hrd; simp
      · have hne : ¬ d.toNat = r.toNat := fun h => hrd (BitVec.eq_of_toNat_eq h.symm)
        rw [if_neg hrd, Vector.getElem_set_ne _ _ hne]

/-- Registers after the drain. -/
theorem State.x_land (s : State) (r : Reg) : s.land.x r = Safety.landedReg s r := by
  have h : s.land.x r = (s.setReg s.pending.index s.pending.value).x r := State.x_of_regs_eq rfl r
  rw [h, State.x_setReg]; rfl

/-- Registers after the drain and an instruction's own write. -/
theorem State.x_writeResult (s : State) (d : Reg) (v : Word) (r : Reg) :
    (s.writeResult d v).x r = if r = 0 then 0 else if r = d then v else Safety.landedReg s r := by
  rw [State.writeResult, State.x_setReg, State.x_land]

/-- The drain changes the register file and the slot only. -/
theorem State.land_eq (s : State) :
    s.land = { s with regs := s.land.regs, pending := { index := 0, value := 0 } } := by
  simp only [State.land, State.setReg]; split <;> rfl

/-- A register write changes the register file only. -/
theorem State.setReg_eq (s : State) (d : Reg) (v : Word) : s.setReg d v = { s with regs := (s.setReg d v).regs } := by
  unfold State.setReg; split <;> rfl

/-- A result write changes the register file and the slot only. -/
theorem State.writeResult_eq (s : State) (d : Reg) (v : Word) :
    s.writeResult d v = { s with regs := (s.writeResult d v).regs, pending := { index := 0, value := 0 } } := by
  simp only [State.writeResult, State.land, State.setReg]
  split <;> split <;> rfl

theorem State.discards_iff (s : State) (j : Reg) :
    s.discards j = true ↔ s.params.loadDiscard = true ∧ j = s.pending.index ∧ j ≠ 0 := by
  simp [State.discards, and_assoc]

/-- The delayed load changes the register file and the slot only. -/
theorem State.delayedLoad_eq (s : State) (j : Reg) (w : Word) :
    s.delayedLoad j w = { s with regs := (s.delayedLoad j w).regs, pending := { index := j, value := w } } := by
  simp only [State.delayedLoad, State.land, State.setReg]
  split <;> split <;> (try split) <;> rfl

/-- Registers and slot after a delayed load. -/
theorem State.loadDelayed_delayedLoad (s : State) (j : Reg) (w : Word) :
    Safety.loadDelayed s j w (s.delayedLoad j w) := by
  refine ⟨by simp [State.delayedLoad], fun r => ?_⟩
  have h : (s.delayedLoad j w).x r = (if s.discards j then s.land.setReg j (s.x j) else s.land).x r :=
    State.x_of_regs_eq rfl r
  rw [h]
  by_cases hd : s.discards j = true
  · have hd' := (State.discards_iff s j).1 hd
    rw [if_pos hd, State.x_setReg, State.x_land]
    by_cases hr : r = j
    · subst hr
      rw [if_neg hd'.2.2, if_pos rfl, if_pos ⟨hd'.1, rfl⟩]
    · by_cases h0 : r = 0
      · rw [if_pos h0, if_neg (fun h => hr h.2), Safety.landedReg, if_pos h0]
      · rw [if_neg h0, if_neg hr, if_neg (fun h => hr h.2)]
  · rw [if_neg hd, State.x_land]
    by_cases hc : s.params.loadDiscard = true ∧ r = j
    · rw [if_pos hc, Safety.landedReg]
      obtain ⟨hl, rfl⟩ := hc
      by_cases h0 : r = 0
      · rw [if_pos h0, h0, State.x_zero]
      · rw [if_neg h0, if_neg (fun h => hd ((State.discards_iff s r).2 ⟨hl, h, h0⟩))]
    · rw [if_neg hc]

/-! ## What a meaning built on one operation leaves -/

theorem memorySame_of_eq {s t : State} (h1 : t.ram = s.ram) (h2 : t.bios = s.bios) (h3 : t.vram = s.vram) :
    Safety.memorySame s t :=
  ⟨fun k => by simp only [State.ramByte, h1], fun k => by simp only [State.biosByte, h2],
    fun k => by simp only [State.vramByte, h3]⟩

/-- The drain and one register write. -/
theorem wrote_writeResult (s : State) (d : Reg) (v : Word) :
    Safety.wrote s d v s.hi s.lo s.nextPc (s.writeResult d v) :=
  ⟨State.x_writeResult s d v, State.writeResult_eq s d v,
    memorySame_of_eq (by simp [State.writeResult]) (by simp [State.writeResult]) (by simp [State.writeResult])⟩

theorem landedReg_drained (s : State) (r : Reg) :
    Safety.landedReg s r = if r = 0 then 0 else if r = 0 then 0 else Safety.landedReg s r := by
  by_cases h : r = 0
  · rw [if_pos h, Safety.landedReg, if_pos h]
  · rw [if_neg h, if_neg h]

/-- The drain and a write of HI and LO. -/
theorem drained_writeHiLo (s : State) (hi lo : Word) : Safety.drained s hi lo s.nextPc (s.writeHiLo hi lo) := by
  refine ⟨fun r => ?_, ?_, memorySame_of_eq ?_ ?_ ?_⟩
  · rw [← landedReg_drained, ← State.x_land]; exact State.x_of_regs_eq rfl r
  all_goals simp only [State.writeHiLo, State.land, State.setReg]; split <;> rfl

/-- The drain, a write of `next_pc` and then of one register. -/
theorem wrote_jumpTo_setReg (s : State) (np : Word) (d : Reg) (v : Word) :
    Safety.wrote s d v s.hi s.lo np ((s.jumpTo np).setReg d v) := by
  refine ⟨fun r => ?_, ?_, memorySame_of_eq ?_ ?_ ?_⟩
  · rw [State.x_setReg]
    have : (s.jumpTo np).x r = Safety.landedReg s r := by rw [← State.x_land]; exact State.x_of_regs_eq rfl r
    rw [this]
  all_goals simp only [State.jumpTo, State.land, State.setReg]; split <;> split <;> rfl

theorem drained_jumpTo (s : State) (np : Word) : Safety.drained s s.hi s.lo np (s.jumpTo np) := by
  have h := wrote_jumpTo_setReg s np 0 0
  rwa [show (s.jumpTo np).setReg 0 0 = s.jumpTo np from if_pos rfl] at h

theorem drained_land (s : State) : Safety.drained s s.hi s.lo s.nextPc s.land := by
  have h := drained_jumpTo s s.nextPc
  rwa [show s.jumpTo s.nextPc = s.land from by simp only [State.jumpTo, State.land, State.setReg]; split <;> rfl] at h

theorem drained_branchIf (s : State) (c : Bool) (t : Word) :
    Safety.drained s s.hi s.lo (if c then t else s.nextPc) (s.branchIf c t) := by
  cases c
  · exact drained_land s
  · exact drained_jumpTo s t

/-- A branch and then the link. -/
theorem wrote_branchIf_setReg (s : State) (c : Bool) (t : Word) (d : Reg) (v : Word) :
    Safety.wrote s d v s.hi s.lo (if c then t else s.nextPc) ((s.branchIf c t).setReg d v) := by
  cases c
  · have h := wrote_jumpTo_setReg s s.nextPc d v
    rwa [show s.jumpTo s.nextPc = s.land from by simp only [State.jumpTo, State.land, State.setReg]; split <;> rfl] at h
  · exact wrote_jumpTo_setReg s t d v

/-! ## The SR stack, CAUSE, and exception entry -/

theorem pushStatus_eq (sr : Word) : pushStatus sr = (sr &&& 0xFFFFFFC0) ||| ((sr &&& 0x0000000F) <<< 2) := by
  apply BitVec.eq_of_getLsbD_eq
  intro i hi
  rw [pushStatus, getLsbD_setField _ _ _ (by decide), BitVec.getLsbD_append]
  interval_cases i <;> simp

theorem popStatus_eq (sr : Word) : popStatus sr = (sr &&& 0xFFFFFFF0) ||| ((sr >>> 2) &&& 0x0000000F) := by
  apply BitVec.eq_of_getLsbD_eq
  intro i hi
  rw [popStatus, getLsbD_setField _ _ _ (by decide)]
  interval_cases i <;> simp

theorem recordCause_eq (c : Word) (code : BitVec 5) (bd : Bool) (ce : BitVec 2) :
    recordCause c code bd ce = (c &&& 0x4FFFFF83) ||| (code.setWidth 32 <<< 2) ||| (ce.setWidth 32 <<< 28) |||
      (if bd then 0x80000000 else 0) := by
  apply BitVec.eq_of_getLsbD_eq
  intro i hi
  rw [recordCause, getLsbD_setField _ _ _ (by decide), getLsbD_setBit _ _ _ (by decide), getLsbD_setField _ _ _ (by decide)]
  cases bd <;> interval_cases i <;> simp

/-- The bits of SR after entry (60_exceptions R303). -/
theorem getLsbD_pushStatus (sr : Word) (i : Nat) (hi : i < 32) :
    (pushStatus sr).getLsbD i = if i < 6 then (if 2 ≤ i then sr.getLsbD (i - 2) else false) else sr.getLsbD i := by
  rw [pushStatus_eq, BitVec.getLsbD_or, BitVec.getLsbD_and, BitVec.getLsbD_shiftLeft, BitVec.getLsbD_and]
  interval_cases i <;> simp

/-- The bits of SR after RFE (47_system_cop0 R274). -/
theorem getLsbD_popStatus (sr : Word) (i : Nat) (hi : i < 32) :
    (popStatus sr).getLsbD i = if i < 4 then sr.getLsbD (i + 2) else sr.getLsbD i := by
  rw [popStatus, getLsbD_setField _ _ _ (by omega)]
  interval_cases i <;> simp

/-- The bits of CAUSE after entry (60_exceptions R300). -/
theorem getLsbD_recordCause (c : Word) (code : BitVec 5) (bd : Bool) (ce : BitVec 2) (i : Nat) :
    (recordCause c code bd ce).getLsbD i =
      if 28 ≤ i ∧ i < 30 then ce.getLsbD (i - 28)
      else if i = 31 then bd else if 2 ≤ i ∧ i < 7 then code.getLsbD (i - 2) else c.getLsbD i := by
  rw [recordCause, getLsbD_setField _ _ _ (by omega), getLsbD_setBit _ _ _ (by omega),
    getLsbD_setField _ _ _ (by omega)]

/-- Exception entry during execute, on the drained state with BadVAddr already written. -/
theorem tookException_enter (s : State) (e : Exception) (ce : BitVec 2) (bad : Word) :
    Safety.tookException s e.code.toNat ce.toNat bad
      ({ s.land with badVaddr := bad }.enterException e s.currentPc s.pc ce) := by
  refine ⟨fun r => ?_, ?_, ?_, ?_, ?_, rfl, ?_, memorySame_of_eq ?_ ?_ ?_⟩
  · rw [← State.x_land]; exact State.x_of_regs_eq rfl r
  · simp only [State.enterException_sr, State.land_sr, pushStatus_eq]
  · simp only [State.enterException_cause, State.land_cause, recordCause_eq]
    have h1 : e.code.setWidth 32 <<< 2 = BitVec.ofNat 32 (4 * e.code.toNat) := by cases e <;> rfl
    have h2 : (ce.setWidth 32 <<< 28 : Word) = BitVec.ofNat 32 (0x10000000 * ce.toNat) := by
      revert ce; decide
    rw [h1, h2]
    by_cases h : s.pc = s.currentPc + 4 <;> simp [inDelaySlot, h]
  · by_cases h : s.pc = s.currentPc + 4 <;> simp [State.enterException, inDelaySlot, h]
  · simp only [State.enterException_pc, State.vector, State.land_sr, testBit]; rfl
  all_goals simp only [State.enterException, State.land, State.setReg]; split <;> rfl

theorem tookException_raise (s : State) (e : Exception) :
    Safety.tookException s e.code.toNat 0 s.badVaddr (s.raise e) := by
  have h := tookException_enter s e 0 s.badVaddr
  rwa [show { s.land with badVaddr := s.badVaddr } = s.land from by
    simp only [State.land, State.setReg]; split <;> rfl] at h

theorem tookException_raiseAddress (s : State) (e : Exception) (a : Word) :
    Safety.tookException s e.code.toNat 0 a (s.raiseAddress e a) := tookException_enter s e 0 a

theorem tookException_raiseUnusable (s : State) (ce : BitVec 2) :
    Safety.tookException s 11 ce.toNat s.badVaddr (s.raiseUnusable ce) := by
  have h := tookException_enter s .coprocessorUnusable ce s.badVaddr
  rwa [show { s.land with badVaddr := s.badVaddr } = s.land from by
    simp only [State.land, State.setReg]; split <;> rfl] at h

end Machine
end Sys2Proof
end

