-- ==== Sys2Proof/Laws/Exec.lean ====
section
/-! SUPPORT. What executing any instruction can do, said once: the five ways it ends. -/

namespace Sys2Proof
namespace Machine

/-- The instruction writes HI or LO (10_state R25). -/
def writesHiLo : Instr → Bool
  | .mult _ _ | .multu _ _ | .div _ _ | .divu _ _ | .mthi _ | .mtlo _ => true
  | _ => false

/-- A load that completed: what `MemRead` gave, extended, through the load delay. -/
theorem loadFrom_spec (s : State) (rt : Reg) (a : Word) (n : Width) (f : Word → Word) :
    Safety.loadDelayed s rt (f (s.memRead a n).1) (s.loadFrom rt a n f) ∧
      s.loadFrom rt a n f = { s with
        regs := (s.loadFrom rt a n f).regs, pending := { index := rt, value := f (s.memRead a n).1 },
        cd := (s.memRead a n).2.cd, gpu := (s.memRead a n).2.gpu, freeCount := (s.memRead a n).2.freeCount } := by
  unfold State.loadFrom
  have hs := readOnly_memRead s a n
  unfold Safety.readOnly at hs
  generalize (s.memRead a n).2 = u at hs
  generalize f (s.memRead a n).1 = v
  have hl : ∀ r, Safety.landedReg u r = Safety.landedReg s r := fun r => by rw [hs]; rfl
  have hx : ∀ r, u.x r = s.x r := fun r => by rw [hs]; rfl
  have hp : u.params = s.params := by rw [hs]
  refine ⟨?_, by rw [State.delayedLoad_eq]; rw [hs]⟩
  have h := State.loadDelayed_delayedLoad u rt v
  exact ⟨h.1, fun r => by rw [h.2, hl, hp, hx]⟩

/-- A COP0 read counts a free value at most. -/
theorem cop0Read_eq (s : State) (n : Nat) : (s.cop0Read n).2 = { s with freeCount := (s.cop0Read n).2.freeCount } := by
  unfold State.cop0Read; split <;> rfl

/-- MFC0 changes the registers, the slot and the count of free values. -/
theorem execMfc0_eq {s t : State} {rt : Reg} {n : Nat} (h : execMfc0 rt n s = .next t) :
    t = { s with regs := t.regs, pending := t.pending, freeCount := t.freeCount } := by
  have hs := cop0Read_eq s n
  unfold execMfc0 at h
  dsimp only at h
  generalize (s.cop0Read n).2 = u at hs h
  cases h
  split
  · rw [State.delayedLoad_eq]; rw [hs]
  · rw [State.writeResult_eq]; rw [hs]

theorem wroteCop0_cop0Write (s : State) (n : Nat) (v : Word) :
    Safety.wroteCop0 s (s.land.cop0Write n v).sr (s.land.cop0Write n v).cause (s.land.cop0Write n v) := by
  have hl := State.land_eq s
  have hx := State.x_land s
  generalize s.land = l at hl hx
  unfold State.cop0Write
  split
  · exact ⟨fun r => by rw [← hx]; rfl, by rw [hl], by rw [hl]; exact memorySame_of_eq rfl rfl rfl⟩
  · exact ⟨fun r => by rw [← hx]; rfl, by rw [hl], by rw [hl]; exact memorySame_of_eq rfl rfl rfl⟩
  · exact ⟨fun r => by rw [← hx], by rw [hl], by rw [hl]; exact memorySame_of_eq rfl rfl rfl⟩

theorem wroteCop0_returnFromException (s : State) :
    Safety.wroteCop0 s (popStatus s.sr) s.cause s.returnFromException := by
  have hl := State.land_eq s
  have hx := State.x_land s
  unfold State.returnFromException
  generalize s.land = l at hl hx
  exact ⟨fun r => by rw [← hx]; rfl, by rw [hl], by rw [hl]; exact memorySame_of_eq rfl rfl rfl⟩

/-- An instruction that answers a next state did one of six things: wrote at most one register, HI, LO and `next_pc`; took one
exception; loaded; stored; moved from COP0; or wrote SR or CAUSE. -/
theorem exec_cases {i : Instr} {s t : State} (h : exec i s = .next t) :
    (∃ d v hi lo np, Safety.wrote s d v hi lo np t ∧ (writesHiLo i = false → hi = s.hi ∧ lo = s.lo)) ∨
    (∃ e ce bad, Safety.tookException s (Exception.code e).toNat ce bad t ∧ ce < 4 ∧ writesHiLo i = false) ∨
    (∃ rt a n f, t = s.loadFrom rt a n f ∧ writesHiLo i = false) ∨
    ((∃ a n v, s.storeTo a n v = .next t) ∧ writesHiLo i = false ∧
      ∃ rt o b, i = .sw rt o b ∨ i = .sh rt o b ∨ i = .sb rt o b) ∨
    (∃ rt n, i = .mfc0 rt n ∧ t = { s with regs := t.regs, pending := t.pending, freeCount := t.freeCount }) ∨
    ((∃ sr cause, Safety.wroteCop0 s sr cause t) ∧ (i = .rfe ∨ ∃ rt n, i = .mtc0 rt n)) := by
  have wrote (d v : _) (h : writesHiLo i = false) : t = s.writeResult d v →
      ∃ d v hi lo np, Safety.wrote s d v hi lo np t ∧ (writesHiLo i = false → hi = s.hi ∧ lo = s.lo) :=
    fun e => ⟨d, v, _, _, _, e ▸ wrote_writeResult s d v, fun _ => ⟨rfl, rfl⟩⟩
  cases i <;> (try cases h)
  case addi rt rs imm =>
    change execAddi rt rs imm s = _ at h
    unfold execAddi at h
    split at h <;> cases h
    · exact .inr (.inl ⟨_, _, _, tookException_raise s .overflow, by omega, rfl⟩)
    · exact .inl (wrote _ _ rfl rfl)
  case add rd rs rt =>
    change execAdd rd rs rt s = _ at h
    unfold execAdd at h
    split at h <;> cases h
    · exact .inr (.inl ⟨_, _, _, tookException_raise s .overflow, by omega, rfl⟩)
    · exact .inl (wrote _ _ rfl rfl)
  case sub rd rs rt =>
    change execSub rd rs rt s = _ at h
    unfold execSub at h
    split at h <;> cases h
    · exact .inr (.inl ⟨_, _, _, tookException_raise s .overflow, by omega, rfl⟩)
    · exact .inl (wrote _ _ rfl rfl)
  case lw rt o b =>
    change execLw rt o b s = _ at h
    unfold execLw at h
    dsimp only at h
    split at h <;> cases h
    · exact .inr (.inr (.inl ⟨_, _, _, _, rfl, rfl⟩))
    · exact .inr (.inl ⟨_, _, _, tookException_raiseAddress s .addressErrorLoad _, by omega, rfl⟩)
  case lh rt o b =>
    change execLh rt o b s = _ at h
    unfold execLh at h
    dsimp only at h
    split at h <;> cases h
    · exact .inr (.inr (.inl ⟨_, _, _, _, rfl, rfl⟩))
    · exact .inr (.inl ⟨_, _, _, tookException_raiseAddress s .addressErrorLoad _, by omega, rfl⟩)
  case lhu rt o b =>
    change execLhu rt o b s = _ at h
    unfold execLhu at h
    dsimp only at h
    split at h <;> cases h
    · exact .inr (.inr (.inl ⟨_, _, _, _, rfl, rfl⟩))
    · exact .inr (.inl ⟨_, _, _, tookException_raiseAddress s .addressErrorLoad _, by omega, rfl⟩)
  case sw rt o b =>
    change execSw rt o b s = _ at h
    unfold execSw at h
    dsimp only at h
    split at h
    · exact .inr (.inr (.inr (.inl ⟨⟨_, _, _, h⟩, rfl, rt, o, b, .inl rfl⟩)))
    · cases h; exact .inr (.inl ⟨_, _, _, tookException_raiseAddress s .addressErrorStore _, by omega, rfl⟩)
  case sh rt o b =>
    change execSh rt o b s = _ at h
    unfold execSh at h
    dsimp only at h
    split at h
    · exact .inr (.inr (.inr (.inl ⟨⟨_, _, _, h⟩, rfl, rt, o, b, .inr (.inl rfl)⟩)))
    · cases h; exact .inr (.inl ⟨_, _, _, tookException_raiseAddress s .addressErrorStore _, by omega, rfl⟩)
  case sb rt o b => exact .inr (.inr (.inr (.inl ⟨⟨_, _, _, h⟩, rfl, rt, o, b, .inr (.inr rfl)⟩)))
  case mfc0 rt n => exact .inr (.inr (.inr (.inr (.inl ⟨rt, n, rfl, execMfc0_eq rfl⟩))))
  case mtc0 rt n => exact .inr (.inr (.inr (.inr (.inr ⟨⟨_, _, wroteCop0_cop0Write s n _⟩, .inr ⟨rt, n, rfl⟩⟩))))
  case rfe => exact .inr (.inr (.inr (.inr (.inr ⟨⟨_, _, wroteCop0_returnFromException s⟩, .inl rfl⟩))))
  case lui | ori | andi | addiu | slti | sltiu | sll | srl | sra | sllv | srlv | srav | addu | subu | and | or | xor | nor |
      slt | sltu | mfhi | mflo =>
    exact .inl (wrote _ _ rfl rfl)
  case lb | lbu => exact .inr (.inr (.inl ⟨_, _, _, _, rfl, rfl⟩))
  case mult | multu | div | divu | mthi | mtlo =>
    exact .inl ⟨_, _, _, _, _, drained_writeHiLo s _ _, fun h => nomatch h⟩
  case j | jr => exact .inl ⟨_, _, _, _, _, drained_jumpTo s _, fun _ => ⟨rfl, rfl⟩⟩
  case jal | jalr => exact .inl ⟨_, _, _, _, _, wrote_jumpTo_setReg s _ _ _, fun _ => ⟨rfl, rfl⟩⟩
  case beq | bne | blez | bgtz | bltz | bgez =>
    exact .inl ⟨_, _, _, _, _, drained_branchIf s _ _, fun _ => ⟨rfl, rfl⟩⟩
  case bltzal | bgezal => exact .inl ⟨_, _, _, _, _, wrote_branchIf_setReg s _ _ _ _, fun _ => ⟨rfl, rfl⟩⟩
  case syscall => exact .inr (.inl ⟨_, _, _, tookException_raise s .syscall, by omega, rfl⟩)
  case brk => exact .inr (.inl ⟨_, _, _, tookException_raise s .breakpoint, by omega, rfl⟩)
  case cop1 | cop3 | lwc0 | lwc1 | lwc3 | swc0 | swc1 | swc3 =>
    exact .inr (.inl ⟨.coprocessorUnusable, _, _, tookException_raiseUnusable s _, by decide, rfl⟩)

end Machine
end Sys2Proof
end

