-- ==== Sys2Proof/Laws/Timers.lean ====
section
/-! SUPPORT. The timers: the register block, one tick, and advancing in parts. -/

namespace Sys2Proof
namespace Machine

theorem timer_setTimer (s : State) (i : Fin 3) (t : Timer) (k : Fin 3) :
    (s.setTimer i t).timer k = if k = i then t else s.timer k := by
  unfold State.setTimer State.timer
  dsimp only
  by_cases h : k = i
  · subst h; simp
  · rw [if_neg h]
    simp
    rw [Vector.getElem_set_ne]
    exact fun h' => h (Fin.ext h'.symm)

theorem setTimer_setTimer (s : State) (i : Fin 3) (a b : Timer) : (s.setTimer i a).setTimer i b = s.setTimer i b := by
  unfold State.setTimer; simp

/-- An address of the timer block selects it (20_memory R82). -/
theorem deviceAt_timers (off : Nat) (h : off < 0x30) :
    deviceAt (Machine.translate (BitVec.ofNat 32 (0x1F801100 + off))) = some (Device.timers, off) := by
  have e : (Machine.translate (BitVec.ofNat 32 (0x1F801100 + off))).toNat = 0x1F801100 + off := by
    rw [toNat_translate, BitVec.toNat_ofNat, Nat.mod_eq_of_lt (by omega), if_pos (by omega)]
  rw [deviceAt_of_row (lo := 0x1F801100) (hi := 0x1F80112F) (d := .timers) (by decide) (by omega) (by omega), e,
    Nat.add_sub_cancel_left]

theorem timerIndex_register (i : Fin 3) (r : Nat) (h : r < 16) : timerIndex (16 * i + r) = some i := by
  have h1 : (16 * (i : Nat) + r) / 16 = i := by omega
  unfold timerIndex
  rw [h1]
  fin_cases i <;> rfl

/-- A write at the mode register of timer `i` (62_timers R384). -/
theorem timerWrite_mode (s : State) (i : Fin 3) (v : Word) :
    s.timerWrite (16 * i + 4) v = s.setTimer i ((s.timer i).writeMode v) := by
  have h : (16 * (i : Nat) + 4) % 16 = 4 := by omega
  unfold State.timerWrite
  simp only [timerIndex_register i 4 (by omega), h]

/-- A read at the mode register of timer `i` (62_timers R383). -/
theorem timerRead_mode (s : State) (i : Fin 3) : s.timerRead (16 * i + 4) = (s.timer i).modeWord.setWidth 32 := by
  have h : (16 * (i : Nat) + 4) % 16 = 4 := by omega
  unfold State.timerRead
  simp only [timerIndex_register i 4 (by omega), h]

/-- The bits of a mode register read (62_timers R383). -/
theorem getLsbD_modeWord (t : Timer) (j : Nat) :
    t.modeWord.getLsbD j =
      if j < 10 then t.mode.getLsbD j
      else if j = 10 then !t.requestLatch else if j = 11 then t.targetFlag else if j = 12 then t.overflowFlag else false := by
  unfold Timer.modeWord
  simp only [BitVec.getLsbD_append, BitVec.getLsbD_ofBool]
  by_cases h : j < 10
  · rw [if_pos h, if_pos h]
  · rw [if_neg h, if_neg h]
    by_cases h0 : j = 10
    · subst h0; simp
    · by_cases h1 : j = 11
      · subst h1; simp
      · by_cases h2 : j = 12
        · subst h2; simp
        · rw [if_neg (by omega), if_neg (by omega), if_neg (by omega), if_neg h0, if_neg h1, if_neg h2]
          simp

end Machine
end Sys2Proof
end

