-- ==== Sys2Proof/Laws/Invariants.lean ====
section
/-! SUPPORT. What every step keeps: a condition on the devices and stores that each device operation keeps is kept by a whole step.
The canonical form of the stores, the CD-ROM's and the GPU's bounds, the timers' fractions and the DMA controller's registers are
such conditions. -/

namespace Sys2Proof
namespace Machine

open Safety

/-! ## Conditions on the devices -/

/-- `t` has the stores, the devices and the parameters of `s`; the CPU, the interrupt latches, the trace and the counters may
differ. -/
def sameDevices (s t : State) : Prop :=
  t.ram = s.ram ∧ t.bios = s.bios ∧ t.vram = s.vram ∧ t.dma = s.dma ∧ t.timers = s.timers ∧ t.cd = s.cd ∧ t.gpu = s.gpu ∧
    t.params = s.params

theorem sameDevices_refl (s : State) : sameDevices s s := ⟨rfl, rfl, rfl, rfl, rfl, rfl, rfl, rfl⟩

theorem sameDevices_trans {s t u : State} (h : sameDevices s t) (k : sameDevices t u) : sameDevices s u := by
  unfold sameDevices at *
  obtain ⟨h1, h2, h3, h4, h5, h6, h7, h8⟩ := h
  obtain ⟨k1, k2, k3, k4, k5, k6, k7, k8⟩ := k
  exact ⟨k1.trans h1, k2.trans h2, k3.trans h3, k4.trans h4, k5.trans h5, k6.trans h6, k7.trans h7, k8.trans h8⟩

theorem sameDevices_enterException (s : State) (e : Exception) (victim follower : Word) (ce : BitVec 2) :
    sameDevices s (s.enterException e victim follower ce) := ⟨rfl, rfl, rfl, rfl, rfl, rfl, rfl, rfl⟩

/-- The device operations keep the condition `P`. -/
structure Kept (P : State → Prop) : Prop where
  same : ∀ {s t : State}, P s → sameDevices s t → P t
  ramWrite : ∀ {s : State} (k n : Nat) (v : Word), P s → P (s.ramWrite k n v)
  gpuRead : ∀ {s : State}, P s → P s.gpuRead.2
  gp0Write : ∀ {s t : State} {w : Word}, P s → s.gp0Write w = .next t → P t
  gp1Write : ∀ {s t : State} {w : Word}, P s → s.gp1Write w = .next t → P t
  cdRead : ∀ {s : State} (off : Nat), P s → P (s.cdRead off).2
  cdWrite : ∀ {s : State} (off : Nat) (v : Byte), P s → P (s.cdWrite off v)
  cdAdvance : ∀ {s : State} (cycles : Nat), P s → P (s.cdAdvance cycles)
  loadDisc : ∀ {s : State} (source : SectorSource), P s → P (s.loadDisc source)
  timerWrite : ∀ {s : State} (off : Nat) (v : Word), P s → P (s.timerWrite off v)
  advanceTimers : ∀ {s : State} (cycles : Nat), P s → P (s.advanceTimers cycles)
  dmaWrite : ∀ {s t : State} {off : Nat} {v : Word}, P s → s.dmaWrite off v = .next t → P t

section kept

variable {P : State → Prop} (K : Kept P)
include K

theorem Kept.memRead {s : State} (h : P s) (a : Word) (n : Width) : P (s.memRead a n).2 := by
  unfold State.memRead
  split
  · unfold State.deviceRead
    split <;> (try exact h)
    · exact K.same h ⟨rfl, rfl, rfl, rfl, rfl, rfl, rfl, rfl⟩
    · split
      · exact K.cdRead _ h
      · exact h
    · split
      · exact K.gpuRead h
      · exact h
  · exact h

theorem Kept.memWrite {s t : State} (h : P s) {a v : Word} {n : Width} (ht : s.memWrite a n v = .next t) : P t := by
  unfold State.memWrite at ht
  split at ht
  · cases ht; exact h
  · split at ht
    · unfold State.deviceWrite at ht
      split at ht
      · cases ht; exact K.ramWrite _ _ _ h
      · cases ht; exact h
      · cases ht; exact h
      · cases ht; exact h
      · cases ht; split
        · exact K.same h ⟨rfl, rfl, rfl, rfl, rfl, rfl, rfl, rfl⟩
        · exact h
      · cases ht; split
        · exact K.same h ⟨rfl, rfl, rfl, rfl, rfl, rfl, rfl, rfl⟩
        · exact h
      · split at ht
        · exact K.dmaWrite h ht
        · cases ht; exact h
      · cases ht; split
        · exact h
        · exact K.timerWrite _ _ h
      · cases ht; split
        · exact K.cdWrite _ _ h
        · exact h
      · split at ht
        · exact K.gp0Write h ht
        · cases ht; exact h
      · split at ht
        · exact K.gp1Write h ht
        · cases ht; exact h
      · cases ht; exact h
    · cases ht; exact h

theorem Kept.land {s : State} (h : P s) : P s.land := K.same h (by rw [State.land_eq]; exact ⟨rfl, rfl, rfl, rfl, rfl, rfl, rfl, rfl⟩)

/-- What an instruction leaves. -/
theorem Kept.exec {i : Instr} {s t : State} (h : P s) (ht : exec i s = .next t) : P t := by
  rcases exec_cases ht with ⟨d, v, hi, lo, np, hw, -⟩ | ⟨e, ce, bad, hx, -⟩ | ⟨rt, a, n, f, rfl, -⟩ | ⟨⟨a, n, v, hs⟩, -⟩ |
    ⟨rt, n, -, hm⟩ | ⟨⟨sr, cause, hc⟩, -⟩
  · exact K.same h (by rw [hw.2.1]; exact ⟨rfl, rfl, rfl, rfl, rfl, rfl, rfl, rfl⟩)
  · exact K.same h (by rw [hx.2.2.2.2.2.2.1]; exact ⟨rfl, rfl, rfl, rfl, rfl, rfl, rfl, rfl⟩)
  · refine K.same (K.memRead h a n) ?_
    rw [State.loadFrom, State.delayedLoad_eq]
    exact ⟨rfl, rfl, rfl, rfl, rfl, rfl, rfl, rfl⟩
  · exact K.memWrite (K.land h) hs
  · exact K.same h (by rw [hm]; exact ⟨rfl, rfl, rfl, rfl, rfl, rfl, rfl, rfl⟩)
  · exact K.same h (by rw [hc.2.1]; exact ⟨rfl, rfl, rfl, rfl, rfl, rfl, rfl, rfl⟩)

/-- What a step of the CPU leaves. -/
theorem Kept.cpuStep {s t : State} (h : P s) (ht : s.cpuStep = .next t) : P t := by
  unfold State.cpuStep at ht
  dsimp only at ht
  have h1 : P s.poll := K.same h ⟨rfl, rfl, rfl, rfl, rfl, rfl, rfl, rfl⟩
  split at ht
  · cases ht; exact K.same h1 ⟨rfl, rfl, rfl, rfl, rfl, rfl, rfl, rfl⟩
  · unfold State.runInstruction at ht
    dsimp only at ht
    have h2 : P s.poll.latch := K.same h1 ⟨rfl, rfl, rfl, rfl, rfl, rfl, rfl, rfl⟩
    split at ht
    · have h3 : P s.poll.latch.fetch.2.advance := K.same (K.memRead h2 _ _) ⟨rfl, rfl, rfl, rfl, rfl, rfl, rfl, rfl⟩
      obtain ⟨u, hu, hf⟩ := andThen_eq_next ht
      cases hf
      refine K.same (?_ : P u) ⟨rfl, rfl, rfl, rfl, rfl, rfl, rfl, rfl⟩
      unfold State.execute at hu
      split at hu
      · exact K.exec h3 hu
      · unfold State.executeOther at hu
        split at hu
        · cases hu; exact K.same (K.land h3) (sameDevices_enterException _ _ _ _ _)
        · cases hu; exact K.same (K.land h3) (sameDevices_enterException _ _ _ _ _)
        · cases hu
        · cases hu
    · cases ht; exact K.same h2 ⟨rfl, rfl, rfl, rfl, rfl, rfl, rfl, rfl⟩

/-- What the boundary after a CPU step leaves. -/
theorem Kept.stepBoundary {s : State} (h : P s) : P s.stepBoundary := by
  have h1 : P s.countStep := K.same h ⟨rfl, rfl, rfl, rfl, rfl, rfl, rfl, rfl⟩
  have h2 : P s.countStep.advanceWhenDue := by
    unfold State.advanceWhenDue
    split
    · exact K.advanceTimers _ (K.cdAdvance _ h1)
    · exact h1
  have h3 : P s.countStep.advanceWhenDue.presentWhenDue := by
    unfold State.presentWhenDue
    split
    · exact K.same h2 ⟨rfl, rfl, rfl, rfl, rfl, rfl, rfl, rfl⟩
    · exact h2
  unfold State.stepBoundary State.environmentTurn
  split
  · exact h3
  · have key (l : List EnvAction) : ∀ u, P u → P (l.foldl State.environmentAction u) := by
      induction l with
      | nil => exact fun u hu => hu
      | cons a l ih =>
        refine fun u hu => ih _ ?_
        cases a with
        | loadDisc source => exact K.loadDisc source hu
        | requestIrq line =>
          show P (if _ then _ else _)
          split
          · exact K.same hu ⟨rfl, rfl, rfl, rfl, rfl, rfl, rfl, rfl⟩
          · exact hu
    exact key _ _ (K.same h3 ⟨rfl, rfl, rfl, rfl, rfl, rfl, rfl, rfl⟩)

/-- What a whole step leaves. -/
theorem Kept.step {s t : State} (h : P s) (ht : step s = .next t) : P t := by
  obtain ⟨u, hu, hf⟩ := andThen_eq_next ht
  cases hf
  exact K.stepBoundary (K.cpuStep h hu)

end kept

/-! ## DMA transfers -/

/-- A transfer keeps what its RAM writes, GPUREAD reads, data-buffer pops and GP0 words keep. -/
theorem dmaRun_keeps {P : State → Prop} (hw : ∀ {s : State} (k n : Nat) (v : Word), P s → P (s.ramWrite k n v))
    (hr : ∀ {s : State}, P s → P s.gpuRead.2) (hc : ∀ {s : State}, P s → P s.cdPopData.2)
    (hg : ∀ {s t : State} {w : Word}, P s → s.gp0Write w = .next t → P t)
    {s t : State} {n : Fin 7} (h : P s) (ht : s.dmaRun n = .next t) : P t := by
  have port : ∀ (s : State) a last, P s → P (s.dmaPortRead n a last).2 := by
    intro s a last h
    unfold State.dmaPortRead
    split
    · exact hr h
    · exact hc (hc (hc (hc h)))
    · exact h
  have toRam : ∀ (dec : Bool) (left : Nat) (a : Word) (s : State), P s → P (dmaMoveToRam n dec left a s) := by
    intro dec left
    induction left with
    | zero => exact fun _ _ h => h
    | succ l ih => exact fun a s h => ih _ _ (hw _ _ _ (port s a _ h))
  have toGp0 : ∀ (dec : Bool) (left : Nat) (a : Word) (s t : State), P s → dmaMoveToGp0 dec left a s = .next t → P t := by
    intro dec left
    induction left with
    | zero => intro a s t h ht; cases ht; exact h
    | succ l ih =>
      intro a s t h ht
      obtain ⟨u, h1, h2⟩ := andThen_eq_next ht
      exact ih _ _ _ (hg h h1) h2
  have payload : ∀ (left : Nat) (a : Word) (s t : State), P s → dmaPayload left a s = .next t → P t := by
    intro left
    induction left with
    | zero => intro a s t h ht; cases ht; exact h
    | succ l ih =>
      intro a s t h ht
      obtain ⟨u, h1, h2⟩ := andThen_eq_next ht
      exact ih _ _ _ (hg h h1) h2
  have linked : ∀ (limit : Nat) (a : Word) (s t : State), P s → dmaLinkedList limit a s = .next t → P t := by
    intro limit
    induction limit with
    | zero => intro a s t h ht; cases ht
    | succ l ih =>
      intro a s t h ht
      obtain ⟨u, h1, h2⟩ := andThen_eq_next ht
      have hu := payload _ _ _ _ h h1
      split at h2
      · cases h2; exact hu
      · exact ih _ _ _ hu h2
  have move : ∀ (count : Nat) (s t : State), P s → s.dmaMove n count = .next t → P t := by
    intro count s t h ht
    unfold State.dmaMove at ht
    dsimp only at ht
    split at ht
    · exact toGp0 _ _ _ _ _ h ht
    · cases ht; exact toRam _ _ _ _ h
  unfold State.dmaRun at ht
  dsimp only at ht
  split at ht
  · cases ht
  · split at ht
    · exact move _ _ _ h ht
    · exact move _ _ _ h ht
    · exact linked _ _ _ _ h ht

/-- A condition that does not look at the DMA controller is kept by its register writes when a transfer keeps it. -/
theorem dmaWrite_keeps {P : State → Prop}
    (hd : ∀ {s : State} (d : Dma) (i : BitVec 11), P s → P { s with dma := d, iStat := i })
    (hrun : ∀ {s t : State} {n : Fin 7}, P s → s.dmaRun n = .next t → P t)
    {s t : State} {off : Nat} {v : Word} (h : P s) (ht : s.dmaWrite off v = .next t) : P t := by
  have update : ∀ (s : State) (d : Word), P s → P (s.dmaUpdateMaster d) := by
    intro s d h
    rw [dmaUpdateMaster_eq]
    exact hd _ _ h
  have channel : ∀ (s : State) (n : Fin 7) (c : DmaChannel), P s → P (s.setDmaChannel n c) := fun s n c h => hd _ s.iStat h
  unfold State.dmaWrite at ht
  split at ht
  · split at ht
    · cases ht; exact channel _ _ _ h
    · cases ht; exact channel _ _ _ h
    · unfold State.writeChcr at ht
      dsimp only at ht
      split at ht
      · obtain ⟨u, h1, h2⟩ := andThen_eq_next ht
        cases h2
        exact update _ _ (channel _ _ _ (hrun (channel _ _ _ h) h1))
      · cases ht; exact channel _ _ _ h
    · cases ht; exact h
  · split at ht
    · cases ht; exact hd _ s.iStat h
    · cases ht; exact update _ _ h
    · cases ht; exact h

/-! ## The stores -/

theorem storesCanonical_of_eq {s t : State} (h : storesCanonical s) (h1 : t.ram = s.ram) (h2 : t.bios = s.bios)
    (h3 : t.vram = s.vram) : storesCanonical t := by
  unfold storesCanonical; rw [h1, h2, h3]; exact h

theorem storesCanonical_ramWrite {s : State} (h : storesCanonical s) (k n : Nat) (v : Word) :
    storesCanonical (s.ramWrite k n v) := by
  refine ⟨State.wf_ramWrite s h.1 k n v, ?_, ?_⟩ <;> rw [State.ramWrite_eq]
  · exact h.2.1
  · exact h.2.2

theorem storesCanonical_loadPixel {s : State} (h : storesCanonical s) (v : Half) : storesCanonical (s.loadPixel v) := by
  unfold State.loadPixel
  dsimp only
  split
  · have hp : storesCanonical (s.setPixel s.gpu.ld.pixelX s.gpu.ld.pixelY v) := by
      refine ⟨?_, ?_, State.wf_setPixel s h.2.2 _ _ v⟩ <;> rw [State.setPixel_eq]
      · exact h.1
      · exact h.2.1
    exact storesCanonical_of_eq hp rfl rfl rfl
  · exact h

theorem vram_gp0Run (s : State) : s.gp0Run.vram = s.vram := by
  unfold State.gp0Run
  generalize s.gpu.cmdOpcode = op
  split <;> rfl

theorem storesCanonical_gp0Write {s t : State} {w : Word} (h : storesCanonical s) (ht : s.gp0Write w = .next t) :
    storesCanonical t := by
  have accept : ∀ u : State, storesCanonical u → storesCanonical (u.gp0Accept w) := by
    intro u hu
    have ho := gpuOnly_gp0Accept u w
    unfold gpuOnly at ho
    refine storesCanonical_of_eq hu (by rw [ho]) (by rw [ho]) ?_
    unfold State.gp0Accept
    dsimp only
    split
    · rw [vram_gp0Run]; rfl
    · rfl
  unfold State.gp0Write at ht
  split at ht
  · split at ht
    · split at ht
      · cases ht
      · cases ht; exact accept _ (storesCanonical_of_eq h rfl rfl rfl)
    · cases ht; exact accept _ h
  · cases ht
    exact storesCanonical_of_eq (storesCanonical_loadPixel (storesCanonical_loadPixel h _) _) rfl rfl rfl
  · cases ht

theorem bios_of_gpuOnly {s t : State} (h : gpuOnly s t) : t.bios = s.bios := by unfold gpuOnly at h; rw [h]

/-- Every device operation keeps RAM, BIOS and VRAM in canonical form and leaves the BIOS. -/
theorem kept_stores (b : Memory) : Kept fun s => storesCanonical s ∧ s.bios = b := by
  have move {s t : State} (h : storesCanonical s ∧ s.bios = b) (h1 : t.ram = s.ram) (h2 : t.bios = s.bios)
      (h3 : t.vram = s.vram) : storesCanonical t ∧ t.bios = b := ⟨storesCanonical_of_eq h.1 h1 h2 h3, h2.trans h.2⟩
  have write {s : State} (k n : Nat) (v : Word) (h : storesCanonical s ∧ s.bios = b) :
      storesCanonical (s.ramWrite k n v) ∧ (s.ramWrite k n v).bios = b :=
    ⟨storesCanonical_ramWrite h.1 k n v, by rw [State.ramWrite_eq]; exact h.2⟩
  have gpuRead {s : State} (h : storesCanonical s ∧ s.bios = b) : storesCanonical s.gpuRead.2 ∧ s.gpuRead.2.bios = b :=
    move h (by rw [gpuRead_eq]) (by rw [gpuRead_eq]) (by rw [gpuRead_eq])
  have gp0 {s t : State} {w : Word} (h : storesCanonical s ∧ s.bios = b) (ht : s.gp0Write w = .next t) :
      storesCanonical t ∧ t.bios = b :=
    ⟨storesCanonical_gp0Write h.1 ht, (bios_of_gpuOnly (gpuOnly_gp0Write ht)).trans h.2⟩
  have cd {s t : State} (h : storesCanonical s ∧ s.bios = b) (ht : cdOnly s t) : storesCanonical t ∧ t.bios = b := by
    unfold cdOnly at ht; exact move h (by rw [ht]) (by rw [ht]) (by rw [ht])
  have timers {s t : State} (h : storesCanonical s ∧ s.bios = b) (ht : timersOnly s t) : storesCanonical t ∧ t.bios = b := by
    unfold timersOnly at ht; exact move h (by rw [ht]) (by rw [ht]) (by rw [ht])
  constructor
  case same => exact fun h e => move h e.1 e.2.1 e.2.2.1
  case ramWrite => exact write
  case gpuRead => exact gpuRead
  case gp0Write => exact gp0
  case gp1Write =>
    intro s t w h ht
    unfold State.gp1Write at ht
    split at ht
    · cases ht; exact move h rfl rfl rfl
    · cases ht
  case cdRead => exact fun off h => move h (by rw [cdRead_eq]) (by rw [cdRead_eq]) (by rw [cdRead_eq])
  case cdWrite => exact fun off v h => cd h (cdOnly_cdWrite _ off v)
  case cdAdvance => exact fun c h => cd h (cdOnly_cdAdvance _ c)
  case loadDisc => exact fun source h => move h rfl rfl rfl
  case timerWrite => exact fun off v h => timers h (timersOnly_timerWrite _ off v)
  case advanceTimers => exact fun c h => timers h (timersOnly_advanceTimers _ c)
  case dmaWrite =>
    intro s t off v
    refine dmaWrite_keeps (P := fun s => storesCanonical s ∧ s.bios = b) (fun _ _ h => ?_) fun {s t n} => ?_
    · exact move h rfl rfl rfl
    · exact dmaRun_keeps (P := fun s => storesCanonical s ∧ s.bios = b) write gpuRead
        (fun h => move h (by rw [cdPopData_eq]) (by rw [cdPopData_eq]) (by rw [cdPopData_eq])) gp0

/-! ## The timers -/

theorem frac_setTimer (s : State) (i : Fin 3) (t : Timer) (h : t.frac = (s.timer i).frac) (k : Fin 3) :
    ((s.setTimer i t).timer k).frac = (s.timer k).frac := by
  rw [timer_setTimer]
  split
  · subst k; exact h
  · rfl

theorem frac_timerEvent (s : State) (i : Fin 3) (e : TimerEvent) (k : Fin 3) :
    ((s.timerEvent i e).timer k).frac = (s.timer k).frac := by
  unfold State.timerEvent
  dsimp only
  split
  · exact frac_setTimer s i _ (by rfl) k
  · rfl

/-- A tick leaves every retained fraction. -/
theorem frac_timerTick (s : State) (i k : Fin 3) : ((s.timerTick i).timer k).frac = (s.timer k).frac := by
  have count : ((s.timerCount i).timer k).frac = (s.timer k).frac := by
    unfold State.timerCount
    dsimp only
    split
    · rw [frac_timerEvent]; exact frac_setTimer s i _ (by rfl) k
    · exact frac_setTimer s i _ (by rfl) k
  rw [← count]
  show ((State.timerMeetTarget _ i).timer k).frac = _
  generalize s.timerCount i = u
  unfold State.timerMeetTarget
  dsimp only
  split
  · split
    · refine (frac_setTimer _ i _ (by rfl) k).trans ?_
      rw [frac_timerEvent]; exact frac_setTimer u i _ (by rfl) k
    · rw [frac_timerEvent]; exact frac_setTimer u i _ (by rfl) k
  · rfl

theorem frac_timerTicks (n : Nat) (i k : Fin 3) (s : State) :
    ((State.timerTicks n i s).timer k).frac = (s.timer k).frac := by
  induction n generalizing s with
  | zero => rfl
  | succ n ih => exact (ih _).trans (frac_timerTick s i k)

theorem params_of_timersOnly {s t : State} (h : timersOnly s t) : t.params = s.params := by unfold timersOnly at h; rw [h]

/-- The rate conversion leaves every fraction below 1 (62_timers R388). -/
theorem timerFractions_advanceTimer {s : State} (hp : 0 < Params.fracDen s.params) (h : timerFractions s) (i : Fin 3)
    (cycles : Nat) : timerFractions (s.advanceTimer i cycles) := by
  intro k
  rw [params_of_timersOnly (timersOnly_advanceTimer s i cycles)]
  unfold State.advanceTimer
  dsimp only
  rw [frac_timerTicks, timer_setTimer]
  split
  · exact Nat.mod_lt _ hp
  · exact h k

theorem timerFractions_timerWrite {s : State} (h : timerFractions s) (off : Nat) (v : Word) :
    timerFractions (s.timerWrite off v) := by
  intro k
  rw [params_of_timersOnly (timersOnly_timerWrite s off v)]
  unfold State.timerWrite
  split
  · exact h k
  · split <;> first | exact h k | exact (frac_setTimer s _ _ (by rfl) k).trans_lt (h k)

/-- Every device operation keeps the parameters and the timers' fractions below 1. -/
theorem kept_timers (p : Params) (hp : p.wellFormed = true) : Kept fun s => s.params = p ∧ timerFractions s := by
  have den : 0 < Params.fracDen p := by
    unfold Params.wellFormed at hp
    simp only [Bool.and_eq_true, decide_eq_true_eq] at hp
    unfold Params.fracDen
    exact Nat.mul_pos (by decide) (by omega)
  have move {s t : State} (h : s.params = p ∧ timerFractions s) (h1 : t.params = s.params) (h2 : t.timers = s.timers) :
      t.params = p ∧ timerFractions t :=
    ⟨h1.trans h.1, fun k => by
      have := h.2 k
      rw [h1]
      unfold State.timer at this ⊢
      rw [h2]
      exact this⟩
  have write {s : State} (k n : Nat) (v : Word) (h : s.params = p ∧ timerFractions s) :
      (s.ramWrite k n v).params = p ∧ timerFractions (s.ramWrite k n v) :=
    move h (by rw [State.ramWrite_eq]) (by rw [State.ramWrite_eq])
  have gpuRead {s : State} (h : s.params = p ∧ timerFractions s) : s.gpuRead.2.params = p ∧ timerFractions s.gpuRead.2 :=
    move h (by rw [gpuRead_eq]) (by rw [gpuRead_eq])
  have gpu {s t : State} (h : s.params = p ∧ timerFractions s) (ht : gpuOnly s t) : t.params = p ∧ timerFractions t := by
    unfold gpuOnly at ht; exact move h (by rw [ht]) (by rw [ht])
  have cd {s t : State} (h : s.params = p ∧ timerFractions s) (ht : cdOnly s t) : t.params = p ∧ timerFractions t := by
    unfold cdOnly at ht; exact move h (by rw [ht]) (by rw [ht])
  have advance {s : State} (h : s.params = p ∧ timerFractions s) (i : Fin 3) (c : Nat) :
      (s.advanceTimer i c).params = p ∧ timerFractions (s.advanceTimer i c) :=
    ⟨(params_of_timersOnly (timersOnly_advanceTimer s i c)).trans h.1,
      timerFractions_advanceTimer (by rw [h.1]; exact den) h.2 i c⟩
  constructor
  case same => exact fun h e => move h e.2.2.2.2.2.2.2 e.2.2.2.2.1
  case ramWrite => exact write
  case gpuRead => exact gpuRead
  case gp0Write => exact fun h ht => gpu h (gpuOnly_gp0Write ht)
  case gp1Write => exact fun h ht => gpu h (gpuOnly_gp1Write ht)
  case cdRead => exact fun off h => move h (by rw [cdRead_eq]) (by rw [cdRead_eq])
  case cdWrite => exact fun off v h => cd h (cdOnly_cdWrite _ off v)
  case cdAdvance => exact fun c h => cd h (cdOnly_cdAdvance _ c)
  case loadDisc => exact fun source h => move h rfl rfl
  case timerWrite =>
    exact fun off v h => ⟨(params_of_timersOnly (timersOnly_timerWrite _ off v)).trans h.1, timerFractions_timerWrite h.2 off v⟩
  case advanceTimers => exact fun c h => advance (advance (advance h 0 c) 1 c) 2 c
  case dmaWrite =>
    intro s t off v
    refine dmaWrite_keeps (P := fun s => s.params = p ∧ timerFractions s) (fun _ _ h => ?_) fun {s t n} => ?_
    · exact move h rfl rfl
    · exact dmaRun_keeps (P := fun s => s.params = p ∧ timerFractions s) write gpuRead
        (fun h => move h (by rw [cdPopData_eq]) (by rw [cdPopData_eq])) (fun h ht => gpu h (gpuOnly_gp0Write ht))

end Machine
end Sys2Proof
end

