-- ==== Sys2Proof/Laws/Bounds.lean ====
section
/-! SUPPORT. The bounds of the CD-ROM controller and the GPU, and the DMA controller's registers, kept by every device operation. -/

namespace Sys2Proof
namespace Machine

open Safety

/-! ## CD-ROM -/

/-- The bounds on the CD-ROM's FIFOs and data buffer. -/
def cdLengths (c : Cdrom) : Prop :=
  c.paramFifo.length ≤ 16 ∧ c.responseFifo.length ≤ 16 ∧ c.dataPos ≤ c.dataLen ∧ c.dataLen ≤ 2352 ∧
    c.dataBuf.length ≤ 2352

/-- The controller is busy exactly in the three busy states. -/
def cdBusy (c : Cdrom) : Prop :=
  c.busy = true ↔ c.cdState = .cmdExec ∨ c.cdState = .reading ∨ c.cdState = .getIdPending

theorem cdBounds_iff (c : Cdrom) :
    cdBounds c ↔ cdLengths c ∧
      (0 < c.delay ↔ c.pendingCmd = 0x06 ∨ c.pendingCmd = 0x15 ∨ c.pendingCmd = 0x1A) ∧ cdBusy c := by
  unfold cdBounds cdLengths cdBusy
  constructor
  · rintro ⟨h1, h2, h3, h4, h5, h6, h7⟩; exact ⟨⟨h1, h2, h3, h4, h5⟩, h6, h7⟩
  · rintro ⟨⟨h1, h2, h3, h4, h5⟩, h6, h7⟩; exact ⟨h1, h2, h3, h4, h5, h6, h7⟩

/-- With nothing pending the bounds are the lengths and the busy flag. -/
theorem cdBounds_of_idle {c : Cdrom} (h : cdLengths c) (hd : c.delay = 0) (hp : c.pendingCmd = 0) (hb : cdBusy c) :
    cdBounds c := by
  refine (cdBounds_iff c).2 ⟨h, ?_, hb⟩
  rw [hd, hp]
  decide

theorem take_length_le (l : List Byte) : (l.take 16).length ≤ 16 := by simp

/-- A failed command leaves the bounds. -/
theorem cdBounds_cdFail {s : State} (h : cdLengths s.cd) (e : Byte) (pad : Nat) : cdBounds (s.cdFail e pad).cd := by
  rw [cd_cdFail]
  exact cdBounds_of_idle ⟨h.1, take_length_le _, h.2.2⟩ rfl rfl (by simp [cdBusy])

/-- A command that concludes at once leaves the bounds. -/
theorem cdBounds_cdComplete {s : State} (h : cdLengths s.cd) (hd : s.cd.delay = 0) (hp : s.cd.pendingCmd = 0)
    (bytes : List Byte) : cdBounds (s.cdComplete bytes).cd := by
  rw [cd_cdComplete]
  exact cdBounds_of_idle ⟨h.1, take_length_le _, h.2.2⟩ hd hp (by simp [cdBusy])

/-- The same after a change of fields that the bounds do not name. -/
theorem cdBounds_setCd_cdComplete (s : State) {c : Cdrom} (h : cdLengths c) (hd : c.delay = 0) (hp : c.pendingCmd = 0)
    (bytes : List Byte) : cdBounds ((s.setCd c).cdComplete bytes).cd := cdBounds_cdComplete h hd hp bytes

/-- What the parts of a command find: the command is executing and nothing is pending. -/
def cdExecuting (c : Cdrom) : Prop :=
  cdLengths c ∧ c.delay = 0 ∧ c.pendingCmd = 0 ∧ c.cdState = .cmdExec ∧ c.busy = true

theorem cdBounds_cdDispatch {s : State} (hp : s.params.wellFormed = true) (h : cdExecuting s.cd) (c : Byte) :
    cdBounds (s.cdDispatch c).cd := by
  obtain ⟨hl, hd, hpc, hs, hb⟩ := h
  unfold Params.wellFormed at hp
  simp only [Bool.and_eq_true, decide_eq_true_eq] at hp
  have stop : cdLengths { s.cd with playing := false, dataPos := 0, dataLen := 0 } :=
    ⟨hl.1, hl.2.1, Nat.le_refl 0, Nat.zero_le _, hl.2.2.2.2⟩
  unfold State.cdDispatch
  split
  · have hg : cdBounds { s.cd with busy := false, cdState := .idle } := cdBounds_of_idle hl hd hpc (by simp [cdBusy])
    unfold State.cdGetStat State.setCd
    exact hg
  · unfold State.cdSetLoc
    split
    · refine cdBounds_setCd_cdComplete s ?_ ?_ ?_ _ <;> dsimp only [cdLengths] <;> assumption
    · exact cdBounds_cdFail hl _ _
  · unfold State.cdReadN
    split
    · refine (cdBounds_iff _).2 ⟨hl, ?_, by simp [State.cdSchedule, State.setCd, cdBusy, hb]⟩
      exact ⟨fun _ => .inl rfl, fun _ => by show 0 < s.params.cdDelayReadN; omega⟩
    · exact cdBounds_cdFail hl _ _
  · exact cdBounds_setCd_cdComplete s stop hd hpc _
  · exact cdBounds_setCd_cdComplete s stop hd hpc _
  · refine cdBounds_setCd_cdComplete s ?_ ?_ ?_ _ <;> dsimp only [cdLengths] <;> assumption
  · unfold State.cdSetMode
    split
    · exact cdBounds_cdFail hl _ _
    · refine cdBounds_setCd_cdComplete s ?_ ?_ ?_ _ <;> dsimp only [cdLengths] <;> assumption
  · refine (cdBounds_iff _).2 ⟨hl, ?_, by simp [State.cdSeekL, State.cdSchedule, State.setCd, cdBusy, hb, hs]⟩
    exact ⟨fun _ => .inr (.inl rfl), fun _ => by show 0 < s.params.cdDelaySeekL; omega⟩
  · unfold State.cdTest
    split
    · exact cdBounds_cdFail hl _ _
    · split
      · exact cdBounds_cdComplete hl hd hpc _
      · exact cdBounds_cdFail hl _ _
  · refine (cdBounds_iff _).2 ⟨hl, ?_, by simp [State.cdGetId, State.cdSchedule, State.setCd, cdBusy, hb]⟩
    exact ⟨fun _ => .inr (.inr rfl), fun _ => by show 0 < s.params.cdDelayGetId; omega⟩
  · exact cdBounds_cdFail hl _ _

theorem params_of_cdOnly {s t : State} (h : cdOnly s t) : t.params = s.params := by unfold cdOnly at h; rw [h]

theorem cdBounds_noParams {c : Cdrom} (h : cdBounds c) : cdBounds { c with paramFifo := [] } := ⟨Nat.zero_le _, h.2⟩

theorem cdBounds_cdCommand {s : State} (hp : s.params.wellFormed = true) (h : cdBounds s.cd) (c : Byte) :
    cdBounds (s.cdCommand c).cd := by
  have hl := ((cdBounds_iff _).1 h).1
  obtain ⟨u, hu, hq, he⟩ : ∃ u : State, cdExecuting u.cd ∧ u.params = s.params ∧
      s.cdCommand c = (u.cdDispatch c).setCd { (u.cdDispatch c).cd with paramFifo := [] } := by
    refine ⟨_, ?_, ?_, rfl⟩
    · dsimp only [State.setCd]
      exact (cd_acknowledged s) ▸ ⟨⟨hl.1, by simp, hl.2.2⟩, rfl, rfl, rfl, rfl⟩
    · exact params_of_cdOnly (cdOnly_trans (cdOnly_setCd s _) (cdOnly_cdRespond _ _ _))
  rw [he]
  exact cdBounds_noParams (cdBounds_cdDispatch (hq ▸ hp) hu c)

theorem cdLengths_readN (c : Cdrom) (h : cdLengths c) (sector : List Byte) :
    cdLengths { c with
      dataBuf := c.userBytes sector ++ c.dataBuf.drop (c.userBytes sector).length
      dataLen := (c.userBytes sector).length, dataPos := 0 } := by
  have hu : (c.userBytes sector).length ≤ 2340 := by
    unfold Cdrom.userBytes
    split <;> simp
  have h5 := h.2.2.2.2
  refine ⟨h.1, h.2.1, Nat.zero_le _, ?_, ?_⟩
  · show (c.userBytes sector).length ≤ 2352
    omega
  · simp only [List.length_append, List.length_drop]
    omega

/-- The conclusion of a pending command leaves the bounds. -/
theorem cdBounds_cdConclude {s : State} (h : cdLengths s.cd) (hd : s.cd.delay = 0) (p : Byte)
    (hp : p = 0x06 ∨ p = 0x15 ∨ p = 0x1A) : cdBounds (s.cdConclude p).cd := by
  have finish : ∀ u : State, cdLengths u.cd → u.cd.delay = 0 → cdBusy u.cd →
      cdBounds (u.setCd { u.cd with pendingCmd := 0 }).cd := fun u h1 h2 h3 => cdBounds_of_idle h1 h2 rfl h3
  have failed : ∀ (e : Byte) (pad : Nat), cdBounds ((s.cdFail e pad).setCd { (s.cdFail e pad).cd with pendingCmd := 0 }).cd := by
    intro e pad
    have := (cdBounds_iff _).1 (cdBounds_cdFail h e pad)
    exact finish _ this.1 (by rw [cd_cdFail]) this.2.2
  have completed : ∀ bytes : List Byte,
      cdBounds ((s.cdComplete bytes).setCd { (s.cdComplete bytes).cd with pendingCmd := 0 }).cd := by
    intro bytes
    apply finish <;> rw [cd_cdComplete]
    · exact ⟨h.1, take_length_le _, h.2.2⟩
    · exact hd
    · simp [cdBusy]
  unfold State.cdConclude
  rcases hp with rfl | rfl | rfl
  · dsimp only
    show cdBounds ((s.cdConcludeReadN).setCd _).cd
    unfold State.cdConcludeReadN
    split
    · exact failed _ _
    · rename_i sector _
      have hr := cdLengths_readN s.cd h sector
      apply finish <;> dsimp only [State.setCd] <;> rw [cd_cdRespond]
      · refine ⟨?_, take_length_le _, ?_, ?_, ?_⟩ <;> dsimp only [State.setCd] <;> rw [cd_cdRespond]
        · exact hr.1
        · exact hr.2.2.1
        · exact hr.2.2.2.1
        · exact hr.2.2.2.2
      · dsimp only; rw [cd_cdRespond]; exact hd
      · simp [cdBusy]
  · exact completed _
  · show cdBounds ((s.cdConcludeGetId).setCd _).cd
    unfold State.cdConcludeGetId
    split
    · exact completed _
    · exact failed _ _

theorem cdBounds_cdAdvance {s : State} (h : cdBounds s.cd) (cycles : Nat) : cdBounds (s.cdAdvance cycles).cd := by
  obtain ⟨hl, hd, hb⟩ := (cdBounds_iff _).1 h
  unfold State.cdAdvance
  split
  · exact h
  · split
    · exact cdBounds_cdConclude (by exact hl) rfl _ (hd.1 (by omega))
    · refine (cdBounds_iff _).2 ⟨hl, ?_, hb⟩
      refine Iff.trans ?_ hd
      show 0 < s.cd.delay - cycles ↔ 0 < s.cd.delay
      omega

theorem cdBounds_cdPopData {s : State} (h : cdBounds s.cd) : cdBounds s.cdPopData.2.cd := by
  unfold State.cdPopData
  split
  · exact ⟨h.1, h.2.1, by assumption, h.2.2.2⟩
  · exact h

theorem cdBounds_cdRead {s : State} (h : cdBounds s.cd) (off : Nat) : cdBounds (s.cdRead off).2.cd := by
  unfold State.cdRead
  split
  · exact h
  · unfold State.cdPopResponse
    split
    · exact h
    · rename_i b rest hr
      exact ⟨h.1, by have := h.2.1; rw [hr] at this; simp at this; show rest.length ≤ 16; omega, h.2.2⟩
  · exact cdBounds_cdPopData h
  · exact h
  · exact h

theorem cdBounds_cdWrite {s : State} (hp : s.params.wellFormed = true) (h : cdBounds s.cd) (off : Nat) (v : Byte) :
    cdBounds (s.cdWrite off v).cd := by
  unfold State.cdWrite
  split
  · exact h
  · exact cdBounds_cdCommand hp h v
  · unfold Cdrom.pushParam
    show cdBounds (if _ then _ else _)
    split
    · rename_i hlt
      refine ⟨?_, h.2⟩
      have : s.cd.paramFifo.length < 16 := hlt
      simp
      omega
    · exact h
  · exact h
  · unfold Cdrom.request
    show cdBounds (if _ then _ else _)
    split
    · exact ⟨Nat.zero_le _, h.2⟩
    · exact h
  · exact h
  · exact h

theorem cdBounds_loadDisc (s : State) (source : SectorSource) : cdBounds (s.loadDisc source).cd :=
  cdBounds_of_idle ⟨Nat.zero_le _, Nat.zero_le _, Nat.le_refl _, Nat.zero_le _, Nat.zero_le _⟩ rfl rfl
    (by simp [cdBusy, State.loadDisc, State.setCd, Cdrom.reset])

/-- Every device operation keeps the CD-ROM's bounds, for parameters the spec allows. -/
theorem kept_cdBounds (p : Params) (hp : p.wellFormed = true) : Kept fun s => s.params = p ∧ cdBounds s.cd := by
  have move {s t : State} (h : s.params = p ∧ cdBounds s.cd) (h1 : t.params = s.params) (h2 : t.cd = s.cd) :
      t.params = p ∧ cdBounds t.cd := ⟨h1.trans h.1, h2 ▸ h.2⟩
  have wf {s : State} (h : s.params = p ∧ cdBounds s.cd) : s.params.wellFormed = true := h.1 ▸ hp
  have write {s : State} (k n : Nat) (v : Word) (h : s.params = p ∧ cdBounds s.cd) :
      (s.ramWrite k n v).params = p ∧ cdBounds (s.ramWrite k n v).cd :=
    move h (by rw [State.ramWrite_eq]) (by rw [State.ramWrite_eq])
  have gpuRead {s : State} (h : s.params = p ∧ cdBounds s.cd) : s.gpuRead.2.params = p ∧ cdBounds s.gpuRead.2.cd :=
    move h (by rw [gpuRead_eq]) (by rw [gpuRead_eq])
  have gpu {s t : State} (h : s.params = p ∧ cdBounds s.cd) (ht : gpuOnly s t) : t.params = p ∧ cdBounds t.cd := by
    unfold gpuOnly at ht; exact move h (by rw [ht]) (by rw [ht])
  have timers {s t : State} (h : s.params = p ∧ cdBounds s.cd) (ht : timersOnly s t) : t.params = p ∧ cdBounds t.cd := by
    unfold timersOnly at ht; exact move h (by rw [ht]) (by rw [ht])
  have popData {s : State} (h : s.params = p ∧ cdBounds s.cd) : s.cdPopData.2.params = p ∧ cdBounds s.cdPopData.2.cd :=
    ⟨by rw [cdPopData_eq]; exact h.1, cdBounds_cdPopData h.2⟩
  constructor
  case same => exact fun h e => move h e.2.2.2.2.2.2.2 e.2.2.2.2.2.1
  case ramWrite => exact write
  case gpuRead => exact gpuRead
  case gp0Write => exact fun h ht => gpu h (gpuOnly_gp0Write ht)
  case gp1Write => exact fun h ht => gpu h (gpuOnly_gp1Write ht)
  case cdRead => exact fun off h => ⟨by rw [cdRead_eq]; exact h.1, cdBounds_cdRead h.2 off⟩
  case cdWrite =>
    exact fun off v h => ⟨(params_of_cdOnly (cdOnly_cdWrite _ off v)).trans h.1, cdBounds_cdWrite (wf h) h.2 off v⟩
  case cdAdvance =>
    exact fun c h => ⟨(params_of_cdOnly (cdOnly_cdAdvance _ c)).trans h.1, cdBounds_cdAdvance h.2 c⟩
  case loadDisc => exact fun source h => ⟨h.1, cdBounds_loadDisc _ source⟩
  case timerWrite => exact fun off v h => timers h (timersOnly_timerWrite _ off v)
  case advanceTimers => exact fun c h => timers h (timersOnly_advanceTimers _ c)
  case dmaWrite =>
    intro s t off v
    refine dmaWrite_keeps (P := fun s => s.params = p ∧ cdBounds s.cd) (fun _ _ h => ?_) fun {s t n} => ?_
    · exact move h rfl rfl
    · exact dmaRun_keeps (P := fun s => s.params = p ∧ cdBounds s.cd) write gpuRead popData
        (fun h ht => gpu h (gpuOnly_gp0Write ht))

/-! ## GPU -/

/-- The bounds of a GPU in Command mode. -/
theorem gpuBounds_command {g : Gpu} (hm : g.gp0Mode = .command) (h1 : g.cmdRemaining ≤ 8)
    (h2 : g.cmdBuf.length + g.cmdRemaining ≤ 9) : gpuBounds g :=
  ⟨h1, h2, fun h => absurd (hm.symm.trans h) (by decide), fun h => absurd (hm.symm.trans h) (by decide)⟩

/-- A complete command runs and leaves the bounds. -/
theorem gpuBounds_gp0Run {s : State} (hm : s.gpu.gp0Mode = .command) (h1 : s.gpu.cmdRemaining = 0)
    (h2 : s.gpu.cmdBuf.length ≤ 9) : gpuBounds s.gp0Run.gpu := by
  have plain {g : Gpu} (e1 : g.gp0Mode = .command) (e2 : g.cmdRemaining = 0) (e3 : g.cmdBuf = s.gpu.cmdBuf) : gpuBounds g :=
    gpuBounds_command e1 (by omega) (by rw [e3, e2]; omega)
  unfold State.gp0Run
  generalize s.gpu.cmdOpcode = op
  split <;> (try exact plain hm h1 rfl)
  · unfold Gpu.startLoad State.setGpu
    dsimp only
    split
    · rename_i hw
      exact ⟨by dsimp only; omega, by dsimp only; omega, fun _ => ⟨hw, h1⟩, by intro h; cases h⟩
    · exact plain rfl h1 rfl
  · unfold Gpu.startRead State.setGpu
    dsimp only
    split
    · rename_i hw
      exact ⟨by dsimp only; omega, by dsimp only; omega, (by intro h; cases h), fun _ => ⟨hw, h1⟩⟩
    · exact plain rfl h1 rfl

/-- One word of an open command leaves the bounds. -/
theorem gpuBounds_gp0Accept {s : State} (hm : s.gpu.gp0Mode = .command) (h0 : 0 < s.gpu.cmdRemaining)
    (h2 : s.gpu.cmdBuf.length + s.gpu.cmdRemaining ≤ 9) (w : Word) : gpuBounds (s.gp0Accept w).gpu := by
  unfold State.gp0Accept
  dsimp only
  split
  · rename_i hz
    exact gpuBounds_gp0Run hm hz (by simp; omega)
  · exact gpuBounds_command hm (by show s.gpu.cmdRemaining - 1 ≤ 8; omega) (by simp; omega)

/-- A command has one to nine words (64_gpu R471). -/
theorem gp0Words_bounds {op : Byte} {n : Nat} (h : gp0Words op = some n) : 0 < n ∧ n ≤ 9 := by
  unfold gp0Words at h
  split at h <;> (try cases h) <;> decide

/-- A pixel of an image load moves the cursor only. -/
theorem gpu_loadPixel (s : State) (h : Half) :
    ∃ t : Transfer, (s.loadPixel h).gpu = { s.gpu with ld := t } ∧ t.words = s.gpu.ld.words := by
  unfold State.loadPixel
  dsimp only
  split
  · exact ⟨_, rfl, by unfold Transfer.advance; split <;> rfl⟩
  · exact ⟨s.gpu.ld, rfl, rfl⟩

theorem gpuBounds_loadWord {s : State} (h : gpuBounds s.gpu) (w : Word) : gpuBounds (s.loadWord w).gpu := by
  obtain ⟨t1, e1, w1⟩ := gpu_loadPixel s (w.extractLsb' 0 16)
  obtain ⟨t2, e2, w2⟩ := gpu_loadPixel (s.loadPixel (w.extractLsb' 0 16)) (w.extractLsb' 16 16)
  unfold State.loadWord
  dsimp only [State.setGpu]
  rw [e2, e1]
  unfold Gpu.countLoadWord
  dsimp only
  obtain ⟨h1, h2, h3, h4⟩ := h
  refine ⟨h1, h2, fun hm => ?_, fun hm => ?_⟩
  · dsimp only at hm ⊢
    split at hm
    · cases hm
    · exact ⟨by omega, (h3 hm).2⟩
  · dsimp only at hm
    split at hm
    · cases hm
    · exact h4 hm

theorem gpu_nextPixel (s : State) :
    ∃ t : Transfer, s.nextPixel.2.gpu = { s.gpu with rd := t } ∧ t.words = s.gpu.rd.words := by
  unfold State.nextPixel
  dsimp only
  split
  · exact ⟨_, rfl, by unfold Transfer.advance; split <;> rfl⟩
  · exact ⟨s.gpu.rd, rfl, rfl⟩

theorem gpuBounds_gpuRead {s : State} (h : gpuBounds s.gpu) : gpuBounds s.gpuRead.2.gpu := by
  unfold State.gpuRead
  split
  · obtain ⟨t1, e1, w1⟩ := gpu_nextPixel s
    obtain ⟨t2, e2, w2⟩ := gpu_nextPixel s.nextPixel.2
    dsimp only [State.setGpu]
    rw [e2, e1]
    unfold Gpu.countReadWord
    dsimp only
    obtain ⟨h1, h2, h3, h4⟩ := h
    refine ⟨h1, h2, fun hm => ?_, fun hm => ?_⟩
    · dsimp only at hm
      split at hm
      · cases hm
      · exact h3 hm
    · dsimp only at hm ⊢
      split at hm
      · cases hm
      · exact ⟨by omega, (h4 hm).2⟩
  · exact h
  · exact h

theorem gpuBounds_gp0Write {s t : State} {w : Word} (h : gpuBounds s.gpu) (ht : s.gp0Write w = .next t) :
    gpuBounds t.gpu := by
  unfold State.gp0Write at ht
  split at ht
  · rename_i hm
    split at ht
    · split at ht
      · cases ht
      · rename_i n hn
        have := gp0Words_bounds hn
        cases ht
        refine gpuBounds_gp0Accept (s := s.setGpu (s.gpu.openCommand (w.extractLsb' 24 8) n)) hm this.1 ?_ w
        show ([] : List Word).length + n ≤ 9
        simp
        omega
    · cases ht
      exact gpuBounds_gp0Accept hm (by omega) h.2.1 w
  · cases ht; exact gpuBounds_loadWord h w
  · cases ht

theorem gpuBounds_gp1Write {s t : State} {w : Word} (h : gpuBounds s.gpu) (ht : s.gp1Write w = .next t) :
    gpuBounds t.gpu := by
  unfold State.gp1Write at ht
  split at ht
  · rename_i g hg
    cases ht
    show gpuBounds g
    unfold Gpu.gp1 at hg
    split at hg <;> cases hg <;> (try exact h)
    · exact gpuBounds_command rfl (by decide) (by decide)
    · exact gpuBounds_command rfl (Nat.zero_le _) (Nat.zero_le _)
  · cases ht

/-- Every device operation keeps the GPU's bounds. -/
theorem kept_gpuBounds : Kept fun s => gpuBounds s.gpu := by
  have move {s t : State} (h : gpuBounds s.gpu) (h2 : t.gpu = s.gpu) : gpuBounds t.gpu := h2 ▸ h
  have write {s : State} (k n : Nat) (v : Word) (h : gpuBounds s.gpu) : gpuBounds (s.ramWrite k n v).gpu :=
    move h (by rw [State.ramWrite_eq])
  have cd {s t : State} (h : gpuBounds s.gpu) (ht : cdOnly s t) : gpuBounds t.gpu := by
    unfold cdOnly at ht; exact move h (by rw [ht])
  have timers {s t : State} (h : gpuBounds s.gpu) (ht : timersOnly s t) : gpuBounds t.gpu := by
    unfold timersOnly at ht; exact move h (by rw [ht])
  constructor
  case same => exact fun h e => move h e.2.2.2.2.2.2.1
  case ramWrite => exact write
  case gpuRead => exact gpuBounds_gpuRead
  case gp0Write => exact gpuBounds_gp0Write
  case gp1Write => exact gpuBounds_gp1Write
  case cdRead => exact fun off h => move h (by rw [cdRead_eq])
  case cdWrite => exact fun off v h => cd h (cdOnly_cdWrite _ off v)
  case cdAdvance => exact fun c h => cd h (cdOnly_cdAdvance _ c)
  case loadDisc => exact fun source h => h
  case timerWrite => exact fun off v h => timers h (timersOnly_timerWrite _ off v)
  case advanceTimers => exact fun c h => timers h (timersOnly_advanceTimers _ c)
  case dmaWrite =>
    intro s t off v
    refine dmaWrite_keeps (P := fun s => gpuBounds s.gpu) (fun _ _ h => h) fun {s t n} => ?_
    exact dmaRun_keeps (P := fun s => gpuBounds s.gpu) write gpuBounds_gpuRead
      (fun h => move h (by rw [cdPopData_eq])) gpuBounds_gp0Write

/-! ## The DMA controller -/

/-- DICR's reserved bits are 0 and its master flag follows its formula. -/
def dicrOk (d : Word) : Prop := d &&& 0x00007FC0 = 0 ∧ testBit d 31 = dicrMaster d

/-- What the DMA controller's registers hold between two steps. -/
def dmaOk (d : Dma) : Prop := (∀ n : Fin 7, chcrActive d.channels[n].chcr = false) ∧ dicrOk d.dicr

theorem reserved_of_bits {d : Word} (h : ∀ i, 6 ≤ i → i < 15 → d.getLsbD i = false) : d &&& 0x00007FC0 = 0 := by
  apply BitVec.eq_of_getLsbD_eq
  intro i hi
  rw [BitVec.getLsbD_and]
  by_cases h2 : 6 ≤ i ∧ i < 15
  · rw [h i h2.1 h2.2]; simp
  · have : (0x00007FC0 : Word).getLsbD i = false := by
      interval_cases i <;> first | rfl | exact absurd ⟨by omega, by omega⟩ h2
    rw [this]; simp

theorem bits_of_reserved {d : Word} (h : d &&& 0x00007FC0 = 0) (i : Nat) (h1 : 6 ≤ i) (h2 : i < 15) :
    d.getLsbD i = false := by
  have := congrArg (fun w => BitVec.getLsbD w i) h
  simp only [BitVec.getLsbD_and] at this
  interval_cases i <;> simpa using this

/-- Following the master flag gives a DICR whose flag follows its formula. -/
theorem dicrOk_update {d : Word} (h : ∀ i, 6 ≤ i → i < 15 → d.getLsbD i = false) :
    dicrOk (setBit d 31 (dicrMaster d)) := by
  refine ⟨reserved_of_bits fun i h1 h2 => ?_, ?_⟩
  · rw [getLsbD_setBit _ _ _ (by omega), if_neg (by omega)]; exact h i h1 h2
  · rw [dicrMaster_setBit, testBit, getLsbD_setBit _ _ _ (by omega), if_pos rfl]

theorem dicrOk_written {d : Word} (h : dicrOk d) (v : Word) (i : Nat) (h1 : 6 ≤ i) (h2 : i < 15) :
    (dicrWritten d v).getLsbD i = false := by
  rw [getLsbD_dicrWritten _ _ _ (by omega), if_neg (by omega), if_neg (by omega)]
  exact bits_of_reserved h.1 i h1 h2

theorem dicrOk_completed {d : Word} (h : dicrOk d) (n : Fin 7) (i : Nat) (h1 : 6 ≤ i) (h2 : i < 15) :
    (dicrCompleted d n).getLsbD i = false := by
  rw [getLsbD_dicrCompleted, bits_of_reserved h.1 i h1 h2]
  simp
  omega

/-- A completed channel is not active (61_dma R360). -/
theorem chcrActive_chcrDone (v : Word) : chcrActive (chcrDone v) = false := by
  unfold chcrActive
  have : testBit (chcrDone v) 24 = false := by
    unfold chcrDone testBit
    rw [getLsbD_setBit _ _ _ (by omega), if_neg (by omega), getLsbD_setBit _ _ _ (by omega), if_pos rfl]
  rw [this]; rfl

theorem channels_setDmaChannel (s : State) (n : Fin 7) (c : DmaChannel)
    (h : ∀ m : Fin 7, m ≠ n → chcrActive (s.dmaChannel m).chcr = false) (hc : chcrActive c.chcr = false) (m : Fin 7) :
    chcrActive ((s.setDmaChannel n c).dmaChannel m).chcr = false := by
  rw [dmaChannel_setDmaChannel]
  split
  · exact hc
  · exact h m (by assumption)

theorem dmaChannel_of_dma_eq {s u : State} (h : u.dma = s.dma) (m : Fin 7) : u.dmaChannel m = s.dmaChannel m := by
  unfold State.dmaChannel; rw [h]

/-- Completion leaves its channel inactive and DICR in order (61_dma R360). -/
theorem dmaOk_dmaComplete {u : State} {n : Fin 7} (h : ∀ m : Fin 7, m ≠ n → chcrActive (u.dmaChannel m).chcr = false)
    (hd : dicrOk u.dma.dicr) : dmaOk (u.dmaComplete n).dma := by
  rw [dmaComplete_eq]
  refine ⟨fun m => ?_, ?_⟩
  · show chcrActive (State.dmaChannel _ m).chcr = false
    rw [dmaChannel_dmaUpdateMaster]
    refine channels_setDmaChannel u n _ h ?_ m
    dsimp only
    exact chcrActive_chcrDone _
  · rw [dmaUpdateMaster_eq]
    exact dicrOk_update (dicrOk_completed hd n)

/-- A register write leaves no channel active and DICR in order (61_dma R346, R348, R350). -/
theorem dmaOk_dmaWrite {s t : State} {off : Nat} {v : Word} (h : dmaOk s.dma) (ht : s.dmaWrite off v = .next t) :
    dmaOk t.dma := by
  obtain ⟨hc, hd⟩ := h
  have setC (n : Fin 7) (c : DmaChannel) (hn : chcrActive c.chcr = false) : dmaOk (s.setDmaChannel n c).dma :=
    ⟨channels_setDmaChannel s n c (fun m _ => hc m) hn, hd⟩
  unfold State.dmaWrite at ht
  split at ht
  · rename_i n _
    split at ht
    · cases ht; exact setC _ _ (hc n)
    · cases ht; exact setC _ _ (hc n)
    · cases ha : chcrActive v with
      | false => rw [writeChcr_inactive s n ha] at ht; cases ht; exact setC _ _ ha
      | true =>
        rw [writeChcr_active s n ha] at ht
        obtain ⟨u, h1, h2⟩ := andThen_eq_next ht
        cases h2
        have hu : u.dma = (s.setDmaChannel n { s.dmaChannel n with chcr := v }).dma := by
          have := transferOnly_dmaRun h1; unfold transferOnly at this; rw [this]
        refine dmaOk_dmaComplete (fun m hm => ?_) ?_
        · rw [dmaChannel_of_dma_eq hu, dmaChannel_setDmaChannel, if_neg hm]
          exact hc m
        · rw [hu]
          exact hd
    · cases ht; exact ⟨hc, hd⟩
  · split at ht
    · cases ht; exact ⟨hc, hd⟩
    · cases ht
      unfold State.writeDicr
      rw [dmaUpdateMaster_eq]
      exact ⟨hc, dicrOk_update (dicrOk_written hd v)⟩
    · cases ht; exact ⟨hc, hd⟩

/-- Every device operation leaves no DMA channel active and DICR in order. -/
theorem kept_dma : Kept fun s => dmaOk s.dma := by
  have move {s t : State} (h : dmaOk s.dma) (h2 : t.dma = s.dma) : dmaOk t.dma := h2 ▸ h
  have gpu {s t : State} (h : dmaOk s.dma) (ht : gpuOnly s t) : dmaOk t.dma := by
    unfold gpuOnly at ht; exact move h (by rw [ht])
  have cd {s t : State} (h : dmaOk s.dma) (ht : cdOnly s t) : dmaOk t.dma := by
    unfold cdOnly at ht; exact move h (by rw [ht])
  have timers {s t : State} (h : dmaOk s.dma) (ht : timersOnly s t) : dmaOk t.dma := by
    unfold timersOnly at ht; exact move h (by rw [ht])
  constructor
  case same => exact fun h e => move h e.2.2.2.1
  case ramWrite => exact fun k n v h => move h (by rw [State.ramWrite_eq])
  case gpuRead => exact fun h => move h (by rw [gpuRead_eq])
  case gp0Write => exact fun h ht => gpu h (gpuOnly_gp0Write ht)
  case gp1Write => exact fun h ht => gpu h (gpuOnly_gp1Write ht)
  case cdRead => exact fun off h => move h (by rw [cdRead_eq])
  case cdWrite => exact fun off v h => cd h (cdOnly_cdWrite _ off v)
  case cdAdvance => exact fun c h => cd h (cdOnly_cdAdvance _ c)
  case loadDisc => exact fun source h => h
  case timerWrite => exact fun off v h => timers h (timersOnly_timerWrite _ off v)
  case advanceTimers => exact fun c h => timers h (timersOnly_advanceTimers _ c)
  case dmaWrite => exact dmaOk_dmaWrite

end Machine
end Sys2Proof
end

