-- ==== Sys2Proof/Laws/Encoding.lean ====
section
/-! SUPPORT. The fields of an assembled word, for proofs about decoding what the encoder writes. -/

namespace Sys2Proof

/-- The fields of an I-format word. -/
@[simp] theorem fieldOp_iType (op : BitVec 6) (rs rt : BitVec 5) (imm : Half) : fieldOp (iType op rs rt imm) = op := by
  apply BitVec.eq_of_getLsbD_eq
  intro i hi
  simp only [fieldOp, iType, BitVec.getLsbD_extractLsb', BitVec.getLsbD_append, hi, decide_true, Bool.true_and]
  repeat rw [if_neg (by omega)]
  congr 1; omega

@[simp] theorem fieldRs_iType (op : BitVec 6) (rs rt : BitVec 5) (imm : Half) : fieldRs (iType op rs rt imm) = rs := by
  apply BitVec.eq_of_getLsbD_eq
  intro i hi
  simp only [fieldRs, iType, BitVec.getLsbD_extractLsb', BitVec.getLsbD_append, hi, decide_true, Bool.true_and]
  rw [if_neg (by omega), if_neg (by omega), if_pos (by omega)]
  congr 1; omega

@[simp] theorem fieldRt_iType (op : BitVec 6) (rs rt : BitVec 5) (imm : Half) : fieldRt (iType op rs rt imm) = rt := by
  apply BitVec.eq_of_getLsbD_eq
  intro i hi
  simp only [fieldRt, iType, BitVec.getLsbD_extractLsb', BitVec.getLsbD_append, hi, decide_true, Bool.true_and]
  rw [if_neg (by omega), if_pos (by omega)]
  congr 1; omega

@[simp] theorem fieldImm16_iType (op : BitVec 6) (rs rt : BitVec 5) (imm : Half) :
    fieldImm16 (iType op rs rt imm) = imm := by
  apply BitVec.eq_of_getLsbD_eq
  intro i hi
  simp only [fieldImm16, iType, BitVec.getLsbD_extractLsb', BitVec.getLsbD_append, hi, decide_true, Bool.true_and]
  rw [if_pos (by omega)]
  congr 1; omega

/-- The fields of an R-format word: `op`, `rs`, `rt`, `rd`, `shamt`, `funct`. -/
theorem fields_rType (rs rt rd sh : BitVec 5) (fn : BitVec 6) :
    fieldOp (rType rs rt rd sh fn) = 0x00#6 ∧ fieldRs (rType rs rt rd sh fn) = rs ∧ fieldRt (rType rs rt rd sh fn) = rt ∧
      fieldRd (rType rs rt rd sh fn) = rd ∧ fieldShamt (rType rs rt rd sh fn) = sh ∧
      fieldFunct (rType rs rt rd sh fn) = fn := by
  refine ⟨?_, ?_, ?_, ?_, ?_, ?_⟩ <;>
  · apply BitVec.eq_of_getLsbD_eq
    intro i hi
    simp only [fieldOp, fieldRs, fieldRt, fieldRd, fieldShamt, fieldFunct, rType, BitVec.getLsbD_extractLsb',
      BitVec.getLsbD_append, hi, decide_true, Bool.true_and]
    repeat (first | rw [if_neg (by omega)] | rw [if_pos (by omega)])
    congr 1; omega

/-- Decoding an R-format word is decoding its `funct`. -/
theorem decode_rType (rs rt rd sh : BitVec 5) (fn : BitVec 6) :
    decode (rType rs rt rd sh fn) = decodeSpecial (rType rs rt rd sh fn) := by
  simp only [decode, (fields_rType rs rt rd sh fn).1]

/-- The fields of a J-format word. -/
theorem fields_jType (op : BitVec 6) (target : BitVec 26) :
    fieldOp (jType op target) = op ∧ fieldTarget26 (jType op target) = target := by
  constructor <;>
  · apply BitVec.eq_of_getLsbD_eq
    intro i hi
    simp only [fieldOp, fieldTarget26, jType, BitVec.getLsbD_extractLsb', BitVec.getLsbD_append, hi, decide_true,
      Bool.true_and]
    first | rw [if_neg (by omega)] | rw [if_pos (by omega)]
    congr 1; omega

/-- The fields of a COP0 move: `op`, `rs`, `rt`, `rd`. -/
theorem fields_cop0Move (sub rt : BitVec 5) (n : Nat) :
    fieldOp (cop0Move sub rt n) = 0x10#6 ∧ fieldRs (cop0Move sub rt n) = sub ∧ fieldRt (cop0Move sub rt n) = rt ∧
      fieldRd (cop0Move sub rt n) = BitVec.ofNat 5 n := by
  refine ⟨?_, ?_, ?_, ?_⟩ <;>
  · apply BitVec.eq_of_getLsbD_eq
    intro i hi
    simp only [fieldOp, fieldRs, fieldRt, fieldRd, cop0Move, BitVec.getLsbD_extractLsb', BitVec.getLsbD_append, hi,
      decide_true, Bool.true_and]
    repeat (first | rw [if_neg (by omega)] | rw [if_pos (by omega)])
    congr 1; omega

/-- A shift amount or a COP0 number that fits its field is what the field gives back. -/
theorem toNat_ofNat_5 {n : Nat} (h : n < 32) : (BitVec.ofNat 5 n).toNat = n := by
  rw [BitVec.toNat_ofNat]; exact Nat.mod_eq_of_lt h

/-- The four bytes of a word, joined again, are the word (20_memory R75). -/
theorem wordOfBytes_bytesOfWord (w : Word) :
    wordOfBytes (w.extractLsb' 0 8) (w.extractLsb' 8 8) (w.extractLsb' 16 8) (w.extractLsb' 24 8) = w := by
  apply BitVec.eq_of_getLsbD_eq
  intro i hi
  simp only [wordOfBytes, BitVec.getLsbD_append, BitVec.getLsbD_extractLsb']
  by_cases h0 : i < 8
  · simp [h0]
  · by_cases h1 : i < 16
    · rw [if_neg h0, if_pos (by omega)]
      have : decide (i - 8 < 8) = true := by simp; omega
      rw [this, Bool.true_and]; congr 1; omega
    · by_cases h2 : i < 24
      · rw [if_neg h0, if_neg (by omega), if_pos (by omega)]
        have : decide (i - 8 - 8 < 8) = true := by simp; omega
        rw [this, Bool.true_and]; congr 1; omega
      · rw [if_neg h0, if_neg (by omega), if_neg (by omega)]
        have : decide (i - 8 - 8 - 8 < 8) = true := by simp; omega
        rw [this, Bool.true_and]; congr 1; omega

end Sys2Proof
end

