-- ==== Sys2Proof/Laws/Operands.lean ====
section
/-! SUPPORT. The operand forms and the conditions in plain arithmetic. -/

namespace Sys2Proof
namespace Machine

/-! ## Operand forms -/

/-- A sign-extended halfword is its signed number. -/
theorem signExt16_eq (imm : Half) : signExt16 imm = BitVec.ofInt 32 imm.toInt := rfl

theorem toInt_signExt16 (imm : Half) : (signExt16 imm).toInt = imm.toInt := by
  rw [signExt16, BitVec.toInt_signExtend_of_le (by omega)]

theorem zeroExt16_eq (imm : Half) : zeroExt16 imm = BitVec.ofNat 32 imm.toNat := by
  apply BitVec.eq_of_toNat_eq; simp [zeroExt16]

theorem upperImm_eq (imm : Half) : upperImm imm = BitVec.ofNat 32 (65536 * imm.toNat) := by
  have := imm.isLt
  apply BitVec.eq_of_toNat_eq
  rw [upperImm, BitVec.toNat_append]
  simp [Nat.shiftLeft_eq]
  omega

/-- The effective address in plain arithmetic (42_load_store R190). -/
theorem effectiveAddress_eq (s : State) (base : Reg) (offset : Half) :
    s.effectiveAddress base offset = s.x base + BitVec.ofInt 32 offset.toInt := rfl

/-- The jump target in plain arithmetic (46_jump_branch R250). -/
theorem jumpTarget_eq (s : State) (target : BitVec 26) :
    s.jumpTarget target = (s.pc &&& 0xF0000000) ||| BitVec.ofNat 32 (4 * target.toNat) := by
  have := target.isLt
  unfold State.jumpTarget
  congr 1
  apply BitVec.eq_of_toNat_eq
  simp [Nat.shiftLeft_eq]
  omega

/-- The branch target in plain arithmetic (46_jump_branch R255). -/
theorem branchTarget_eq (s : State) (offset : Half) :
    s.branchTarget offset = s.pc + BitVec.ofInt 32 (4 * offset.toInt) := by
  unfold State.branchTarget
  congr 1
  apply BitVec.eq_of_toInt_eq
  have h1 := offset.le_toInt
  have h2 := offset.toInt_lt
  norm_num at h1 h2
  have e := toInt_signExt16 offset
  rw [BitVec.toInt_shiftLeft, BitVec.toInt_ofInt]
  rw [← Int.bmod_eq_of_le (n := offset.toInt) (m := 2 ^ 32) (by norm_num; omega) (by norm_num; omega)] at e
  rw [BitVec.toInt_eq_toNat_bmod] at e
  have h3 : (((signExt16 offset).toNat <<< 2 : Nat) : Int) = 4 * ((signExt16 offset).toNat : Int) := by
    simp [Nat.shiftLeft_eq]; ring
  rw [h3, Int.bmod_eq_bmod_iff_bmod_sub_eq_zero]
  rw [Int.bmod_eq_bmod_iff_bmod_sub_eq_zero] at e
  rw [← Int.dvd_iff_bmod_eq_zero] at *
  omega

theorem shiftAmount_eq (s : State) (rs : Reg) : s.shiftAmount rs = (s.x rs).toNat % 32 := by
  simp [State.shiftAmount]

theorem wordAligned_eq (a : Word) : wordAligned a = decide (a.toNat % 4 = 0) := by
  rw [Bool.eq_iff_iff]; simp [wordAligned, ← BitVec.toNat_inj]

theorem halfAligned_eq (a : Word) : halfAligned a = decide (a.toNat % 2 = 0) := by
  rw [Bool.eq_iff_iff]; simp [halfAligned, ← BitVec.toNat_inj]

/-! ## Extension of a loaded value -/

theorem asUnsignedHalf_eq (v : Word) : asUnsignedHalf v = BitVec.ofNat 32 (v.toNat % 65536) := by
  apply BitVec.eq_of_toNat_eq; simp [asUnsignedHalf]

theorem asUnsignedByte_eq (v : Word) : asUnsignedByte v = BitVec.ofNat 32 (v.toNat % 256) := by
  apply BitVec.eq_of_toNat_eq; simp [asUnsignedByte]

theorem asSignedHalf_eq (v : Word) : asSignedHalf v = BitVec.ofInt 32 (v.setWidth 16).toInt := by
  have h : v.extractLsb' 0 16 = v.setWidth 16 := by apply BitVec.eq_of_toNat_eq; simp
  rw [asSignedHalf, h]; rfl

theorem asSignedByte_eq (v : Word) : asSignedByte v = BitVec.ofInt 32 (v.setWidth 8).toInt := by
  have h : v.extractLsb' 0 8 = v.setWidth 8 := by apply BitVec.eq_of_toNat_eq; simp
  rw [asSignedByte, h]; rfl

/-! ## Conditions -/

theorem testBit_sign (a : Word) : testBit a 31 = decide (a.toInt < 0) := by
  unfold testBit; rw [← BitVec.msb_eq_toInt, BitVec.msb_eq_getLsbD_last]

theorem boolWord_decide (p : Prop) [Decidable p] : boolWord (decide p) = if p then 1 else 0 := by simp [boolWord]

/-- The overflow test of a sum says that the exact sum does not fit in 32 signed bits. -/
theorem addOverflows_iff (a b : Word) :
    addOverflows a b = true ↔ ¬(-2 ^ 31 ≤ a.toInt + b.toInt ∧ a.toInt + b.toInt < 2 ^ 31) := by
  have e := BitVec.toInt_add a b
  have := a.le_toInt
  have := a.toInt_lt
  have := b.le_toInt
  have := b.toInt_lt
  rw [Int.bmod_def] at e
  unfold addOverflows
  simp only [testBit_sign, Bool.and_eq_true, beq_iff_eq, bne_iff_ne, ne_eq, decide_eq_decide]
  norm_num at *
  constructor
  · rintro ⟨ha, hb⟩
    split at e <;> omega
  · intro h
    constructor
    · by_contra hc; split at e <;> omega
    · intro hc; split at e <;> omega

/-- The overflow test of a difference says that the exact difference does not fit in 32 signed bits. -/
theorem subOverflows_iff (a b : Word) :
    subOverflows a b = true ↔ ¬(-2 ^ 31 ≤ a.toInt - b.toInt ∧ a.toInt - b.toInt < 2 ^ 31) := by
  have e := BitVec.toInt_sub (x := a) (y := b)
  have := a.le_toInt
  have := a.toInt_lt
  have := b.le_toInt
  have := b.toInt_lt
  rw [Int.bmod_def] at e
  unfold subOverflows
  simp only [testBit_sign, Bool.and_eq_true, bne_iff_ne, ne_eq, decide_eq_decide]
  norm_num at *
  constructor
  · rintro ⟨ha, hb⟩
    split at e <;> omega
  · intro h
    constructor
    · intro hc; split at e <;> omega
    · intro hc; split at e <;> omega

end Machine
end Sys2Proof
end

