-- ==== Sys2Proof/Laws/Run.lean ====
section
/-! SUPPORT. Runs: what a step counts, how runs compose, and what a run keeps. -/

namespace Sys2Proof
namespace Machine

/-! ## The step counter and the parameters -/

/-- The step counter and the parameters of `t` are those of `s`. -/
def sameCount (s t : State) : Prop := t.stepCount = s.stepCount ∧ t.params = s.params

theorem sameCount_trans {s t u : State} (h : sameCount s t) (k : sameCount t u) : sameCount s u :=
  ⟨k.1.trans h.1, k.2.trans h.2⟩

theorem sameCount_of_devicesOnly {s t : State} (h : Safety.devicesOnly s t) : sameCount s t := by
  unfold Safety.devicesOnly at h; rw [h]; exact ⟨rfl, rfl⟩

theorem sameCount_memRead (s : State) (a : Word) (n : Width) : sameCount s (s.memRead a n).2 :=
  sameCount_of_devicesOnly (devicesOnly_of_readOnly (readOnly_memRead s a n))

theorem sameCount_land (s : State) : sameCount s s.land := ⟨State.land_stepCount s, State.land_params s⟩

theorem sameCount_exec {i : Instr} {s t : State} (h : exec i s = .next t) : sameCount s t := by
  rcases exec_cases h with ⟨d, v, hi, lo, np, hw, -⟩ | ⟨e, ce, bad, hx, -⟩ | ⟨rt, a, n, f, rfl, -⟩ | ⟨⟨a, n, v, hs⟩, -⟩ |
    ⟨rt, n, -, hm⟩ | ⟨⟨sr, cause, hc⟩, -⟩
  · rw [hw.2.1]; exact ⟨rfl, rfl⟩
  · rw [hx.2.2.2.2.2.2.1]; exact ⟨rfl, rfl⟩
  · rw [State.loadFrom, State.delayedLoad_eq]; exact sameCount_memRead s a n
  · exact sameCount_trans (sameCount_land s) (sameCount_of_devicesOnly (devicesOnly_memWrite hs))
  · rw [hm]; exact ⟨rfl, rfl⟩
  · rw [hc.2.1]; exact ⟨rfl, rfl⟩

theorem sameCount_cpuStep {s t : State} (h : s.cpuStep = .next t) : sameCount s t := by
  unfold State.cpuStep at h
  dsimp only at h
  split at h
  · cases h; exact ⟨rfl, rfl⟩
  · unfold State.runInstruction at h
    dsimp only at h
    split at h
    · obtain ⟨u, hu, hf⟩ := andThen_eq_next h
      cases hf
      show sameCount s u
      have fetched : sameCount s s.poll.latch.fetch.2.advance := sameCount_memRead s.poll.latch _ _
      unfold State.execute at hu
      split at hu
      · exact sameCount_trans fetched (sameCount_exec hu)
      · unfold State.executeOther at hu
        split at hu <;> cases hu <;> exact sameCount_trans fetched (sameCount_land _)
    · cases h; exact ⟨rfl, rfl⟩

theorem sameCount_environmentActions (l : List EnvAction) :
    ∀ s : State, sameCount s (l.foldl State.environmentAction s) := by
  induction l with
  | nil => exact fun _ => ⟨rfl, rfl⟩
  | cons a l ih =>
    refine fun s => sameCount_trans (?_ : sameCount s (s.environmentAction a)) (ih _)
    cases a with
    | loadDisc source => exact ⟨rfl, rfl⟩
    | requestIrq line => unfold State.environmentAction; dsimp only; split <;> exact ⟨rfl, rfl⟩

theorem sameCount_stepBoundary (s : State) : sameCount s.countStep s.stepBoundary := by
  have advanced : sameCount s.countStep s.countStep.advanceWhenDue := by
    unfold State.advanceWhenDue
    split
    · exact sameCount_of_devicesOnly (devicesOnly_advanceDevices _ _)
    · exact ⟨rfl, rfl⟩
  have presented : sameCount s.countStep s.countStep.advanceWhenDue.presentWhenDue := by
    unfold State.presentWhenDue
    split <;> exact advanced
  unfold State.stepBoundary State.environmentTurn
  split
  · exact presented
  · exact sameCount_trans presented (sameCount_environmentActions _ _)

/-- Every step that answers a next state counts one and keeps the parameters (70_reset_and_hazards R560). -/
theorem step_counts {s t : State} (h : step s = .next t) : t.stepCount = s.stepCount + 1 ∧ t.params = s.params := by
  obtain ⟨u, hu, hf⟩ := andThen_eq_next h
  cases hf
  obtain ⟨h1, h2⟩ := sameCount_cpuStep hu
  obtain ⟨h3, h4⟩ := sameCount_stepBoundary u
  exact ⟨by rw [h3, State.countStep_stepCount, h1], by rw [h4, State.countStep_params, h2]⟩

/-! ## Runs -/

@[simp] theorem run_zero (s : State) : run 0 s = .next s := rfl

theorem run_of_ended {s : State} (h : s.runEnded = true) (limit : Nat) : run limit s = .next s := by
  cases limit with
  | zero => rfl
  | succ k => simp [run, h]

theorem run_succ {s : State} (h : s.runEnded = false) (limit : Nat) : run (limit + 1) s = andThen (step s) (run limit) := by
  simp [run, h]

/-- What every step keeps holds at the end of a run. -/
theorem run_keeps {P : State → Prop} (hp : ∀ {s t : State}, P s → step s = .next t → P t) (limit : Nat) :
    ∀ {s t : State}, P s → run limit s = .next t → P t := by
  induction limit with
  | zero => intro s t h ht; cases ht; exact h
  | succ k ih =>
    intro s t h ht
    by_cases e : s.runEnded = true
    · rw [run_of_ended e] at ht; cases ht; exact h
    · rw [run_succ (by simpa using e)] at ht
      obtain ⟨u, hu, hf⟩ := andThen_eq_next ht
      exact ih (hp h hu) hf

end Machine
end Sys2Proof
end

