-- ==== Sys2Proof/Tests/Slice0.lean ====
section
/-! SUPPORT. Tests: the well-formedness checks, a written-out word for every row, one step of every instruction, the devices,
and a witness for the hypotheses of every statement.
Expected values are the vectors of 95_test_vectors (section in each heading);
words and values it does not print are written out by hand from the rules. -/

namespace Sys2Proof
namespace Tests

-- One theorem at a time: each evaluation takes a thread with a deep stack.
set_option Elab.async false

open Machine

/-! ## Helpers -/

/-- The decoder reads exactly this instruction. -/
def reads (w : Word) (i : Instr) : Bool :=
  match decode w with
  | .ok j => j == i
  | .error _ => false

/-- The decoder rejects the word for this reason. -/
def rejects (w : Word) (e : DecodeError) : Bool :=
  match decode w with
  | .ok _ => false
  | .error f => f == e

/-- One field of the state a result goes on with. -/
def look {α : Type} (r : Result) (f : State → α) : Option α :=
  match r with
  | .next t => some (f t)
  | _ => none

/-- The result goes on. -/
def goesOn (r : Result) : Bool := (look r fun _ => ()).isSome

theorem next_of_goesOn {r : Result} (h : goesOn r = true) : ∃ t, r = .next t := by
  cases r with
  | next t => exact ⟨t, rfl⟩
  | fault e => cases h
  | refused e => cases h

/-- The state of the conventions of 95_test_vectors section 2, as `exec` finds it: instruction at 0x80000100, fetched and
advanced; r1 = 0x11111111. -/
def cpu (r2 r3 : Word) : State :=
  { State.reset with
    regs := ((State.reset.regs.set 1 0x11111111).set 2 r2).set 3 r3
    pc := 0x80000104, nextPc := 0x80000108, currentPc := 0x80000100, sr := 0 }

/-- The same with a word of RAM at 0x200 and one at 0x204. -/
def ramCpu (r2 w0 w1 : Word) : State := ((cpu r2 0).ramWrite 0x200 4 w0).ramWrite 0x204 4 w1

/-- Execute a word on a state. -/
def run {α : Type} (w : Word) (s : State) (f : State → α) : Option α := look (s.execute w) f

/-- What an exception leaves: CAUSE, EPC, `pc` and r1. -/
def trap (t : State) : Word × Word × Word × Word := (t.cause, t.epc, t.pc, t.x 1)

/-- Word stores one after the other. -/
def stores : List (Word × Word) → State → Result
  | [], s => .next s
  | (a, v) :: rest, s => andThen (s.memWrite a .word v) (stores rest)

/-- Byte stores to the CD-ROM block one after the other. -/
def cdStores : List (Nat × Byte) → State → State
  | [], s => s
  | (k, v) :: rest, s => cdStores rest (s.cdWrite k v)

/-- The reset state with `LUI r8, 0x1F00` stored where the next step fetches. -/
def boot : State := State.reset.withFetchWord 32 0x3C081F00

/-! ## Well-formedness: what each check refuses -/

theorem test_shamt_32_is_ill_formed :
    (Instr.sll 1 2 32).wellFormed = false ∧ (Instr.srl 1 2 32).wellFormed = false ∧
      (Instr.sra 1 2 32).wellFormed = false := by decide

theorem test_cop0_number_32_is_ill_formed :
    (Instr.mfc0 1 32).wellFormed = false ∧ (Instr.mtc0 1 32).wellFormed = false := by decide

theorem test_largest_operands_are_well_formed :
    (Instr.sll 31 31 31).wellFormed = true ∧ (Instr.mtc0 31 31).wellFormed = true ∧
      (Instr.lui 31 0xFFFF).wellFormed = true := by decide

/-! ## Decoding: one written-out word for every row (30_encoding R137 to R142) -/

theorem test_decode_immediate :
    reads 0x3C081F00 (.lui 8 0x1F00) ∧ reads 0x35080FFF (.ori 8 8 0x0FFF) ∧ reads 0x3041FF00 (.andi 1 2 0xFF00) ∧
      reads 0x2041FFFF (.addi 1 2 0xFFFF) ∧ reads 0x24418000 (.addiu 1 2 0x8000) ∧
      reads 0x2841FFFF (.slti 1 2 0xFFFF) ∧ reads 0x2C417FFF (.sltiu 1 2 0x7FFF) := by decide

theorem test_decode_load_store :
    reads 0x8C41FFFC (.lw 1 0xFFFC 2) ∧ reads 0x84010202 (.lh 1 0x202 0) ∧ reads 0x94010202 (.lhu 1 0x202 0) ∧
      reads 0x80010203 (.lb 1 0x203 0) ∧ reads 0x90010203 (.lbu 1 0x203 0) ∧ reads 0xAC020204 (.sw 2 0x204 0) ∧
      reads 0xA4020206 (.sh 2 0x206 0) ∧ reads 0xA0020205 (.sb 2 0x205 0) := by decide

theorem test_decode_shift :
    reads 0x00020900 (.sll 1 2 4) ∧ reads 0x00020902 (.srl 1 2 4) ∧ reads 0x00020FC3 (.sra 1 2 31) ∧
      reads 0x00620804 (.sllv 1 2 3) ∧ reads 0x00620806 (.srlv 1 2 3) ∧ reads 0x00620807 (.srav 1 2 3) := by decide

theorem test_decode_register :
    reads 0x00430820 (.add 1 2 3) ∧ reads 0x00430821 (.addu 1 2 3) ∧ reads 0x00430822 (.sub 1 2 3) ∧
      reads 0x00430823 (.subu 1 2 3) ∧ reads 0x00430824 (.and 1 2 3) ∧ reads 0x00430825 (.or 1 2 3) ∧
      reads 0x00430826 (.xor 1 2 3) ∧ reads 0x00430827 (.nor 1 2 3) ∧ reads 0x0043082A (.slt 1 2 3) ∧
      reads 0x0043082B (.sltu 1 2 3) := by decide

theorem test_decode_muldiv :
    reads 0x00430018 (.mult 2 3) ∧ reads 0x00430019 (.multu 2 3) ∧ reads 0x0043001A (.div 2 3) ∧
      reads 0x0043001B (.divu 2 3) ∧ reads 0x00000810 (.mfhi 1) ∧ reads 0x00000812 (.mflo 1) ∧
      reads 0x00400011 (.mthi 2) ∧ reads 0x00400013 (.mtlo 2) := by decide

theorem test_decode_jump_branch :
    reads 0x0BFFFFFF (.j 0x3FFFFFF) ∧ reads 0x0C000100 (.jal 0x100) ∧ reads 0x00400008 (.jr 2) ∧
      reads 0x0040F809 (.jalr 31 2) ∧ reads 0x10430003 (.beq 2 3 3) ∧ reads 0x1443FFFC (.bne 2 3 0xFFFC) ∧
      reads 0x18400002 (.blez 2 2) ∧ reads 0x1C400002 (.bgtz 2 2) ∧ reads 0x04400002 (.bltz 2 2) ∧
      reads 0x04410002 (.bgez 2 2) ∧ reads 0x04500002 (.bltzal 2 2) ∧ reads 0x07F10002 (.bgezal 31 2) := by decide

theorem test_decode_system :
    reads 0x0048D14C (.syscall) ∧ reads 0x0000000D (.brk) ∧ reads 0x40026000 (.mfc0 2 12) ∧
      reads 0x40826800 (.mtc0 2 13) ∧ reads 0x42000010 (.rfe) := by decide

theorem test_decode_unusable :
    reads 0x44000000 (.cop1) ∧ reads 0x4C000000 (.cop3) ∧ reads 0xC0000000 (.lwc0) ∧ reads 0xC4000000 (.lwc1) ∧
      reads 0xCC000000 (.lwc3) ∧ reads 0xE0000000 (.swc0) ∧ reads 0xE4000000 (.swc1) ∧ reads 0xEC000000 (.swc3) := by decide

theorem test_decode_refused :
    reads 0x38000000 (.xori) ∧ reads 0x48000000 (.cop2) ∧ reads 0x88000000 (.lwl) ∧ reads 0x98000000 (.lwr) ∧
      reads 0xA8000000 (.swl) ∧ reads 0xB8000000 (.swr) ∧ reads 0xC8000000 (.lwc2) ∧ reads 0xE8000000 (.swc2) := by decide

/-- Reserved words, the two refused groups, and fields an instruction ignores (30_encoding R135, R139, R140). -/
theorem test_decode_other_words :
    rejects 0xFC000000 .reservedInstruction ∧ rejects 0x0000003F .reservedInstruction ∧ rejects 0x04020000 .regimmSelector ∧
      rejects 0x40400000 .cop0SubOpcode ∧ rejects 0x42000011 .cop0SubOpcode ∧ reads 0x3FE81F00 (.lui 8 0x1F00) ∧
      reads 0x03E20FC4 (.sllv 1 2 31) := by decide

/-- The decoder on bytes: little-endian, the rest of the list given back, and no word in three bytes. -/
theorem test_decode_bytes :
    decodeBytes [0x00, 0x1F, 0x08, 0x3C, 0xFF] = .ok (.lui 8 0x1F00, [0xFF]) ∧ decodeBytes [0, 0, 0] = .error .tooShort ∧
      decodeTableWord 32 0x3C081F00 = some (.lui 8 0x1F00) := ⟨rfl, rfl, rfl⟩

/-! ## One step of every instruction (95_test_vectors 2.1 to 2.8) -/

theorem test_lui :
    run 0x3C081F00 (cpu 0 0) (·.x 8) = some 0x1F000000 ∧ run 0x3C01FFFF (cpu 0 0) (·.x 1) = some 0xFFFF0000 := by
  decide +kernel

theorem test_ori :
    run 0x34018000 (cpu 0 0) (·.x 1) = some 0x8000 := by
  decide +kernel

theorem test_andi :
    run 0x3041FF00 (cpu 0xFFFFFFFF 0) (·.x 1) = some 0xFF00 := by
  decide +kernel

/-- The second traps although the destination is r0. -/
theorem test_addi :
    run 0x2041FFFF (cpu 0x00000005 0) (·.x 1) = some 4 ∧
      run 0x20400001 (cpu 0x7FFFFFFF 0) trap = some (0x30, 0x80000100, 0x80000080, 0x11111111) := by
  decide +kernel

theorem test_addiu :
    run 0x24418000 (cpu 0x00008000 0) (·.x 1) = some 0 ∧ run 0x24000005 (cpu 0 0) (·.x 0) = some 0 := by
  decide +kernel

theorem test_slti :
    run 0x2841FFFF (cpu 0xFFFFFFFE 0) (·.x 1) = some 1 ∧ run 0x28410000 (cpu 0x7FFFFFFF 0) (·.x 1) = some 0 := by
  decide +kernel

theorem test_sltiu :
    run 0x2C41FFFF (cpu 0xFFFFFFFE 0) (·.x 1) = some 1 ∧ run 0x2C417FFF (cpu 0x80000000 0) (·.x 1) = some 0 := by
  decide +kernel

/-- A negative offset through KSEG0; the value is still on its way. -/
theorem test_lw :
    run 0x8C41FFFC (ramCpu 0x80000204 0x8899AABB 0) (·.pending) = some { index := 1, value := 0x8899AABB } ∧
      run 0x8C41FFFC (ramCpu 0x80000204 0x8899AABB 0) (·.x 1) = some 0x11111111 := by
  decide +kernel

theorem test_lw_misaligned :
    run 0x8C01FFFD (ramCpu 0 0x8899AABB 0) trap = some (0x10, 0x80000100, 0x80000080, 0x11111111) ∧
      run 0x8C01FFFD (ramCpu 0 0x8899AABB 0) (·.badVaddr) = some 0xFFFFFFFD := by
  decide +kernel

theorem test_lh :
    run 0x84010202 (ramCpu 0 0x8899AABB 0) (·.pending) = some { index := 1, value := 0xFFFF8899 } ∧
      run 0x84010200 (ramCpu 0 0x8899AABB 0) (·.pending) = some { index := 1, value := 0xFFFFAABB } := by
  decide +kernel

theorem test_lhu :
    run 0x94010202 (ramCpu 0 0x8899AABB 0) (·.pending) = some { index := 1, value := 0x8899 } ∧
      run 0x94010203 (ramCpu 0 0x8899AABB 0) trap = some (0x10, 0x80000100, 0x80000080, 0x11111111) := by
  decide +kernel

theorem test_lb :
    run 0x80010200 (ramCpu 0 0x8899AABB 0) (·.pending) = some { index := 1, value := 0xFFFFFFBB } ∧
      run 0x80010203 (ramCpu 0 0x8899AABB 0) (·.pending) = some { index := 1, value := 0xFFFFFF88 } := by
  decide +kernel

theorem test_lbu :
    run 0x90010203 (ramCpu 0 0x8899AABB 0) (·.pending) = some { index := 1, value := 0x88 } := by
  decide +kernel

theorem test_sw :
    run 0xAC020204 (ramCpu 0x11223344 0x8899AABB 0) (·.ramRead 0x204 4) = some 0x11223344 := by
  decide +kernel

theorem test_sw_isolated_or_misaligned :
    run 0xAC020204 { ramCpu 0x11223344 0x8899AABB 0 with sr := 0x00010000 } (·.ramRead 0x204 4) = some 0 ∧
      run 0xAC020205 (ramCpu 0x11223344 0x8899AABB 0) trap = some (0x14, 0x80000100, 0x80000080, 0x11111111) := by
  decide +kernel

theorem test_sh :
    run 0xA4020206 (ramCpu 0x11223344 0x8899AABB 0) (·.ramRead 0x204 4) = some 0x33440000 ∧
      run 0xA4020205 (ramCpu 0x11223344 0x8899AABB 0) trap = some (0x14, 0x80000100, 0x80000080, 0x11111111) := by
  decide +kernel

theorem test_sb :
    run 0xA0020205 (ramCpu 0x11223344 0x8899AABB 0) (·.ramRead 0x204 4) = some 0x4400 ∧
      run 0xA0020200 (ramCpu 0x11223344 0x8899AABB 0) (·.ramRead 0x200 4) = some 0x8899AA44 := by
  decide +kernel

theorem test_sll :
    run 0x00020900 (cpu 0xF000000F 0) (·.x 1) = some 0xF0 ∧
      run 0x00020FC0 (cpu 0x00000003 0) (·.x 1) = some 0x80000000 := by
  decide +kernel

theorem test_srl :
    run 0x00020902 (cpu 0x80000010 0) (·.x 1) = some 0x08000001 ∧
      run 0x00020802 (cpu 0x80000010 0) (·.x 1) = some 0x80000010 := by
  decide +kernel

theorem test_sra :
    run 0x00020903 (cpu 0x80000010 0) (·.x 1) = some 0xF8000001 ∧ run 0x00020FC3 (cpu 0x7FFFFFFF 0) (·.x 1) = some 0 := by
  decide +kernel

theorem test_sllv :
    run 0x00620804 (cpu 0x00000001 0x00000024) (·.x 1) = some 0x10 := by
  decide +kernel

theorem test_srlv :
    run 0x00620806 (cpu 0x80000000 0xFFFFFFFF) (·.x 1) = some 1 := by
  decide +kernel

theorem test_srav :
    run 0x00620807 (cpu 0x80000000 0x00000020) (·.x 1) = some 0x80000000 ∧
      run 0x00620807 (cpu 0xFFFF0000 0x00000008) (·.x 1) = some 0xFFFFFF00 := by
  decide +kernel

theorem test_add :
    run 0x00430820 (cpu 0x00000007 0xFFFFFFFE) (·.x 1) = some 5 ∧
      run 0x00430820 (cpu 0x80000000 0x80000000) trap = some (0x30, 0x80000100, 0x80000080, 0x11111111) := by
  decide +kernel

theorem test_addu :
    run 0x00430821 (cpu 0x7FFFFFFF 0x00000001) (·.x 1) = some 0x80000000 := by
  decide +kernel

theorem test_sub :
    run 0x00430822 (cpu 0x00000005 0x00000007) (·.x 1) = some 0xFFFFFFFE ∧
      run 0x00030822 (cpu 0 0x80000000) trap = some (0x30, 0x80000100, 0x80000080, 0x11111111) := by
  decide +kernel

theorem test_subu :
    run 0x00430823 (cpu 0x80000000 0x00000001) (·.x 1) = some 0x7FFFFFFF := by
  decide +kernel

theorem test_and :
    run 0x00430824 (cpu 0xFF00FF00 0x0FF00FF0) (·.x 1) = some 0x0F000F00 := by
  decide +kernel

theorem test_or :
    run 0x00430825 (cpu 0xFF00FF00 0x0FF00FF0) (·.x 1) = some 0xFFF0FFF0 := by
  decide +kernel

theorem test_xor :
    run 0x00430826 (cpu 0xFF00FF00 0x0FF00FF0) (·.x 1) = some 0xF0F0F0F0 := by
  decide +kernel

theorem test_nor :
    run 0x00430827 (cpu 0xFF00FF00 0x0FF00FF0) (·.x 1) = some 0x000F000F := by
  decide +kernel

theorem test_slt :
    run 0x0043082A (cpu 0x80000000 0x00000001) (·.x 1) = some 1 := by
  decide +kernel

theorem test_sltu :
    run 0x0043082B (cpu 0x80000000 0x00000001) (·.x 1) = some 0 ∧ run 0x0003082B (cpu 0 0x00000009) (·.x 1) = some 1 := by
  decide +kernel

theorem test_mult :
    run 0x00430018 (cpu 0xFFFFFFFF 0x00000002) (fun t => (t.hi, t.lo)) = some (0xFFFFFFFF, 0xFFFFFFFE) ∧
      run 0x00430018 (cpu 0x80000000 0x7FFFFFFF) (fun t => (t.hi, t.lo)) = some (0xC0000000, 0x80000000) := by
  decide +kernel

theorem test_multu :
    run 0x00430019 (cpu 0xFFFFFFFF 0x00000002) (fun t => (t.hi, t.lo)) = some (1, 0xFFFFFFFE) := by
  decide +kernel

theorem test_div :
    run 0x0043001A (cpu 0xFFFFFFF9 0x00000002) (fun t => (t.hi, t.lo)) = some (0xFFFFFFFF, 0xFFFFFFFD) ∧
      run 0x0043001A (cpu 0x00000007 0xFFFFFFFE) (fun t => (t.hi, t.lo)) = some (1, 0xFFFFFFFD) := by
  decide +kernel

theorem test_div_corners :
    run 0x0043001A (cpu 0xFFFFFFF9 0) (fun t => (t.hi, t.lo)) = some (0xFFFFFFF9, 1) ∧
      run 0x0043001A (cpu 0 0) (fun t => (t.hi, t.lo)) = some (0, 0xFFFFFFFF) ∧
      run 0x0043001A (cpu 0x80000000 0xFFFFFFFF) (fun t => (t.hi, t.lo)) = some (0, 0x80000000) := by
  decide +kernel

theorem test_divu :
    run 0x0043001B (cpu 0xFFFFFFF9 0x00000002) (fun t => (t.hi, t.lo)) = some (1, 0x7FFFFFFC) ∧
      run 0x0043001B (cpu 0x80000000 0) (fun t => (t.hi, t.lo)) = some (0x80000000, 0xFFFFFFFF) := by
  decide +kernel

theorem test_mfhi :
    run 0x00000810 { cpu 0x12345678 0 with hi := 0xAAAAAAAA, lo := 0xBBBBBBBB } (·.x 1) = some 0xAAAAAAAA := by
  decide +kernel

theorem test_mflo :
    run 0x00000812 { cpu 0x12345678 0 with hi := 0xAAAAAAAA, lo := 0xBBBBBBBB } (·.x 1) = some 0xBBBBBBBB := by
  decide +kernel

theorem test_mthi :
    run 0x00400011 { cpu 0x12345678 0 with hi := 0xAAAAAAAA, lo := 0xBBBBBBBB } (fun t => (t.hi, t.lo)) =
      some (0x12345678, 0xBBBBBBBB) := by
  decide +kernel

theorem test_mtlo :
    run 0x00400013 { cpu 0x12345678 0 with hi := 0xAAAAAAAA, lo := 0xBBBBBBBB } (fun t => (t.hi, t.lo)) =
      some (0xAAAAAAAA, 0x12345678) := by
  decide +kernel

theorem test_j :
    run 0x0BFFFFFF (cpu 0 0) (·.nextPc) = some 0x8FFFFFFC ∧
      run 0x08000080 { cpu 0 0 with pc := 0xBFC00104 } (·.nextPc) = some 0xB0000200 := by
  decide +kernel

theorem test_jal :
    run 0x0C000100 (cpu 0 0) (fun t => (t.nextPc, t.x 31)) = some (0x80000400, 0x80000108) := by
  decide +kernel

/-- A misaligned target is accepted here. -/
theorem test_jr :
    run 0x00400008 (cpu 0x00000003 0) (·.nextPc) = some 3 := by
  decide +kernel

/-- Words written out by hand; the second reads r2 before it writes the link there. -/
theorem test_jalr :
    run 0x00400809 (cpu 0x80002000 0) (fun t => (t.nextPc, t.x 1)) = some (0x80002000, 0x80000108) ∧
      run 0x00401009 (cpu 0x80002000 0) (fun t => (t.nextPc, t.x 2)) = some (0x80002000, 0x80000108) := by
  decide +kernel

theorem test_beq :
    run 0x10430003 (cpu 0x00000005 0x00000005) (·.nextPc) = some 0x80000110 ∧
      run 0x10008000 (cpu 0 0) (·.nextPc) = some 0x7FFE0104 := by
  decide +kernel

theorem test_bne :
    run 0x1443FFFC (cpu 0x00000005 0x00000006) (·.nextPc) = some 0x800000F4 ∧
      run 0x1443FFFC (cpu 0x00000005 0x00000005) (·.nextPc) = some 0x80000108 := by
  decide +kernel

theorem test_blez :
    run 0x18400002 (cpu 0 0) (·.nextPc) = some 0x8000010C ∧
      run 0x18400002 (cpu 0x00000001 0) (·.nextPc) = some 0x80000108 := by
  decide +kernel

theorem test_bgtz :
    run 0x1C400002 (cpu 0x00000001 0) (·.nextPc) = some 0x8000010C ∧
      run 0x1C400002 (cpu 0 0) (·.nextPc) = some 0x80000108 := by
  decide +kernel

theorem test_bltz :
    run 0x04400002 (cpu 0xFFFFFFFF 0) (·.nextPc) = some 0x8000010C ∧
      run 0x04400002 (cpu 0 0) (·.nextPc) = some 0x80000108 := by
  decide +kernel

theorem test_bgez :
    run 0x04410002 (cpu 0 0) (·.nextPc) = some 0x8000010C ∧
      run 0x04410002 (cpu 0x80000000 0) (·.nextPc) = some 0x80000108 := by
  decide +kernel

theorem test_bltzal :
    run 0x04500002 (cpu 0xFFFFFFFF 0) (fun t => (t.nextPc, t.x 31)) = some (0x8000010C, 0x80000108) ∧
      run 0x04500002 (cpu 0x00000001 0) (fun t => (t.nextPc, t.x 31)) = some (0x80000108, 0x80000108) := by
  decide +kernel

/-- The condition reads the old r31. -/
theorem test_bgezal :
    run 0x04510002 (cpu 0x00000001 0) (fun t => (t.nextPc, t.x 31)) = some (0x8000010C, 0x80000108) ∧
      run 0x07F10002 { cpu 0 0 with regs := State.reset.regs.set 31 0xFFFFFFFF } (fun t => (t.nextPc, t.x 31)) =
        some (0x80000108, 0x80000108) := by
  decide +kernel

theorem test_syscall :
    run 0x0048D14C { cpu 0 0 with sr := 0x00400000 } (fun t => (t.sr, t.cause, t.epc, t.pc)) =
      some (0x00400000, 0x20, 0x80000100, 0xBFC00180) ∧
      run 0x0000000C { cpu 0 0 with sr := 0x00000401 } (fun t => (t.sr, t.cause, t.epc, t.pc)) =
        some (0x404, 0x20, 0x80000100, 0x80000080) := by
  decide +kernel

theorem test_brk :
    run 0x0000000D { cpu 0 0 with sr := 0x00000003 } (fun t => (t.sr, t.cause, t.epc, t.pc)) =
      some (0xC, 0x24, 0x80000100, 0x80000080) := by
  decide +kernel

theorem test_mfc0 :
    run 0x40026000 { cpu 0x22222222 0 with sr := 0x10400401 } (fun t => (t.x 2, t.pending)) =
      some (0x22222222, { index := 2, value := 0x10400401 }) ∧
      run 0x40024000 { cpu 0 0 with badVaddr := 0x201 } (·.pending.value) = some 0x201 := by
  decide +kernel

theorem test_mtc0 :
    run 0x40826000 (cpu 0x00010401 0) (·.sr) = some 0x00010401 ∧
      run 0x40826800 (cpu 0xFFFFFFFF 0) (fun t => (t.sr, t.cause)) = some (0, 0x300) ∧
      run 0x40827000 (cpu 0xFFFFFFFF 0) (·.epc) = some 0 := by
  decide +kernel

theorem test_rfe :
    run 0x42000010 { cpu 0 0 with sr := 0x00400034 } (·.sr) = some 0x0040003D ∧
      run 0x42000010 { cpu 0 0 with sr := 0x0000000B } (·.sr) = some 2 := by
  decide +kernel

theorem test_cop1 :
    run 0x44000000 (cpu 0 0) trap = some (0x1000002C, 0x80000100, 0x80000080, 0x11111111) := by
  decide +kernel

theorem test_cop3 :
    run 0x4C000000 (cpu 0 0) trap = some (0x3000002C, 0x80000100, 0x80000080, 0x11111111) := by
  decide +kernel

theorem test_lwc0 :
    run 0xC0000000 (cpu 0 0) trap = some (0x2C, 0x80000100, 0x80000080, 0x11111111) := by
  decide +kernel

theorem test_lwc1 :
    run 0xC4000000 (cpu 0 0) trap = some (0x1000002C, 0x80000100, 0x80000080, 0x11111111) := by
  decide +kernel

theorem test_lwc3 :
    run 0xCC000000 (cpu 0 0) trap = some (0x3000002C, 0x80000100, 0x80000080, 0x11111111) := by
  decide +kernel

theorem test_swc0 :
    run 0xE0000000 (cpu 0 0) trap = some (0x2C, 0x80000100, 0x80000080, 0x11111111) := by
  decide +kernel

theorem test_swc1 :
    run 0xE4000000 (cpu 0 0) trap = some (0x1000002C, 0x80000100, 0x80000080, 0x11111111) := by
  decide +kernel

theorem test_swc3 :
    run 0xEC000000 (cpu 0 0) trap = some (0x3000002C, 0x80000100, 0x80000080, 0x11111111) := by
  decide +kernel

/-- The refused opcodes answer a refusal with their name (30_encoding R141). -/
theorem test_refused_opcodes :
    (cpu 0 0).execute 0x38000000 = .refused (.outsideRequiredSet "XORI") ∧
      (cpu 0 0).execute 0x48000000 = .refused (.outsideRequiredSet "COP2") ∧
      (cpu 0 0).execute 0x88000000 = .refused (.outsideRequiredSet "LWL") ∧
      (cpu 0 0).execute 0x98000000 = .refused (.outsideRequiredSet "LWR") ∧
      (cpu 0 0).execute 0xA8000000 = .refused (.outsideRequiredSet "SWL") ∧
      (cpu 0 0).execute 0xB8000000 = .refused (.outsideRequiredSet "SWR") ∧
      (cpu 0 0).execute 0xC8000000 = .refused (.outsideRequiredSet "LWC2") ∧
      (cpu 0 0).execute 0xE8000000 = .refused (.outsideRequiredSet "SWC2") :=
  ⟨rfl, rfl, rfl, rfl, rfl, rfl, rfl, rfl⟩

theorem test_reserved_words :
    run 0xFC000000 (cpu 0 0) trap = some (0x28, 0x80000100, 0x80000080, 0x11111111) ∧
      run 0x0000003F (cpu 0 0) trap = some (0x28, 0x80000100, 0x80000080, 0x11111111) := by
  decide +kernel

/-! ## The step (95_test_vectors 1, 2.8, 2.9) -/

/-- Scenario 1. -/
theorem test_boot_step :
    look (step boot) (fun t => (t.x 8, t.currentPc, t.pc, t.nextPc)) =
      some (0x1F000000, 0xBFC00000, 0xBFC00004, 0xBFC00008) := by
  decide +kernel

theorem test_interrupt_at_the_poll :
    look { State.reset with sr := 0x401, iStat := 4, iMask := 4, pc := 0x80001000, nextPc := 0x80001004 }.cpuStep
      (fun t => (t.sr, t.cause, t.epc, t.pc, t.nextPc)) = some (0x404, 0x400, 0x80001000, 0x80000080, 0x80000084) := by
  decide +kernel

theorem test_misaligned_fetch :
    look { State.reset with sr := 0, pc := 0x80000203, nextPc := 0x80000207 }.cpuStep
      (fun t => (t.cause, t.epc, t.badVaddr, t.pc)) = some (0x10, 0x80000203, 0x80000203, 0x80000080) := by
  decide +kernel

/-- An overflow in a jump's delay slot: BD, and EPC at the jump. -/
theorem test_delay_slot_entry :
    run 0x20410001 { cpu 0x7FFFFFFF 0 with currentPc := 0x80002004, pc := 0x80003000 } (fun t => (t.cause, t.epc)) =
      some (0x80000030, 0x80002000) := by
  decide +kernel

/-- L1, second step. -/
theorem test_load_delay_reads_the_old_value :
    run 0x00201021 { cpu 0 0 with pending := { index := 1, value := 0xAA } } (fun t => (t.x 1, t.x 2, t.pending.index)) =
      some (0xAA, 0x11111111, 0) := by
  decide +kernel

/-- L2, second step. -/
theorem test_load_discard :
    run 0x8C010204 { ramCpu 0 0xAA 0xBB with pending := { index := 1, value := 0xAA } }
      (fun t => (t.x 1, t.pending.value)) = some (0x11111111, 0xBB) := by
  decide +kernel

/-- L4, second step. -/
theorem test_alu_write_beats_the_landing :
    run 0x24010005 { cpu 0 0 with pending := { index := 1, value := 0xAA } } (·.x 1) = some 5 := by
  decide +kernel

/-- L6, second step. -/
theorem test_the_load_lands_under_an_exception :
    run 0x0000000C { cpu 0 0 with pending := { index := 1, value := 0xAA } } (·.x 1) = some 0xAA := by
  decide +kernel

/-! ## Memory map, interrupts, DMA (95_test_vectors 2.10 to 2.12) -/

theorem test_constant_reads :
    (State.reset.memRead 0x9F000000 .word).1 = 0xFFFFFFFF ∧ (State.reset.memRead 0x00200000 .word).1 = 0 ∧
      (State.reset.memRead 0xBF801814 .word).1 = 0x14800000 ∧ (State.reset.memRead 0xC0001000 .word).1 = 0 := by
  decide +kernel

theorem test_ram_aliases :
    look ({ State.reset with sr := 0 }.memWrite 0xA0001000 .word 0xCAFEBABE)
      (fun t => ((t.memRead 0x1000 .word).1, (t.memRead 0x80001001 .byte).1)) = some (0xCAFEBABE, 0xBA) := by
  decide +kernel

theorem test_i_mask_keeps_11_bits :
    look (State.reset.memWrite 0x1F801074 .word 0xFFFFFFFF) (fun t => (t.memRead 0xBF801074 .word).1) = some 0x7FF := by
  decide +kernel

theorem test_i_stat_acknowledge :
    look ({ State.reset with iStat := 0xC }.memWrite 0x1F801070 .word 4) (·.iStat) = some 8 ∧
      look ({ State.reset with iStat := 0xC }.memWrite 0x1F801070 .byte 0xFF) (·.iStat) = some 0xC := by
  decide +kernel

/-- M3. -/
theorem test_otc_transfer :
    look (stores [(0x1F8010E0, 0x100), (0x1F8010E4, 4), (0x1F8010E8, 0x11000002)] State.reset)
      (fun t => (t.ramRead 0x100 4, t.ramRead 0xFC 4, t.ramRead 0xF8 4, t.ramRead 0xF4 4)) =
      some (0xFC, 0xF8, 0xF4, 0xFFFFFF) := by
  decide +kernel

/-- M12. -/
theorem test_dma_completion_interrupt :
    look (stores [(0x1F8010F4, 0x00C00000), (0x1F8010E0, 0x102), (0x1F8010E4, 1), (0x1F8010E8,
      0x11000002)] State.reset) (fun t => (t.dma.dicr, t.iStat, (t.dmaChannel 6).chcr)) = some (0xC0C00000, 8, 2) := by
  decide +kernel

/-- M17. -/
theorem test_dicr_write :
    look (stores [(0x1F8010F4, 0xFFFFFFFF)] State.reset) (fun t => (t.dma.dicr, t.iStat)) = some (0x80FF803F, 8) := by
  decide +kernel

/-- The packets of M10, the second word with another argument. -/
def packets : State :=
  (((State.reset.ramWrite 0x1000 4 0x02001010).ramWrite 0x1004 4 0xE1000000).ramWrite 0x1008 4 0xE3001407).ramWrite
    0x1010 4 0x00FFFFFF

/-- M10. -/
theorem test_linked_list :
    look (stores [(0x1F8010A0, 0x1000), (0x1F8010A8, 0x01000401)] packets)
      (fun t => (t.gpu.drawLeft, t.gpu.drawTop, (t.dmaChannel 2).chcr)) = some (7, 5, 0x401) := by
  decide +kernel

/-! ## Timers, CD-ROM, GPU (95_test_vectors 2.13 to 2.15) -/

/-- T6. -/
theorem test_timer_wraps_and_requests :
    look (stores [(0x1F801104, 0x20), (0x1F801100, 0xFFFE), (0x1F801108, 0x8000)] State.reset)
      (fun t => ((t.advanceTimer 0 1).timer 0).counter) = some 0xFFFF ∧
      look (stores [(0x1F801104, 0x20), (0x1F801100, 0xFFFE), (0x1F801108, 0x8000)] State.reset)
        (fun t => ((t.advanceTimer 0 2).timerRead 4, (t.advanceTimer 0 2).iStat)) = some (0x1020, 0x10) := by
  decide +kernel

/-- T3. -/
theorem test_timer_meets_its_target :
    look (stores [(0x1F801124, 0x258), (0x1F801128, 4)] State.reset)
      (fun t => ((t.advanceTimer 2 31).timerRead 0x20, (t.advanceTimer 2 32).timerRead 0x24,
      (t.advanceTimer 2 32).iStat)) = some (3, 0xA58, 0x40) := by
  decide +kernel

theorem test_timer_mode_register :
    look (stores [(0x1F801124, 0xFFFF0258)] State.reset)
      (fun t => ((t.memRead 0x1F801124 .word).1, (t.memRead 0x1F801126 .half).1, (t.memRead 0x1F80112C .word).1)) =
      some (0x658, 0, 0) := by
  decide +kernel

/-- D5, D6. -/
theorem test_cd_set_loc :
    (cdStores [(2, 0x00), (2, 0x02), (2, 0x16), (1, 0x02)] State.reset).cd.targetLba = 16 ∧
      (cdStores [(2, 0x00), (2, 0x02), (2, 0x16), (1, 0x02)] State.reset).cd.irqFlags = 6 ∧
      (cdStores [(2, 0x99), (2, 0x59), (2, 0x74), (1, 0x02)] State.reset).cd.targetLba = 449849 := by
  decide +kernel

/-- D7. -/
theorem test_cd_set_loc_too_few :
    (cdStores [(2, 0x00), (2, 0x02), (1, 0x02)] State.reset).cd.responseFifo = [0x01, 0x40] ∧
      (cdStores [(2, 0x00), (2, 0x02), (1, 0x02)] State.reset).cd.irqFlags = 0x14 := by
  decide +kernel

/-- D9. -/
theorem test_cd_get_id :
    ((cdStores [(1, 0x1A)] State.reset).cdAdvance 999).cd.delay = 1 ∧
      ((cdStores [(1, 0x1A)] State.reset).cdAdvance 1000).cd.responseFifo = [0x01, 0x80, 0, 0, 0, 0, 0, 0] ∧
      (cdStores [(0, 1)] ((cdStores [(1, 0x1A)] State.reset).cdAdvance 1000)).cd.interruptByte = 0xF4 := by
  decide +kernel

/-- The sector of D11 and D12: byte k is (7 k + 3) mod 256. -/
def sector : List Byte := (List.range 2352).map fun k => BitVec.ofNat 8 (7 * k + 3)

/-- A controller with that sector at LBA 16. -/
def withDisc : State := State.reset.loadDisc { present := true, sectors := [(16, sector)] }

/-- D11 without the acknowledge in between, and D13. -/
theorem test_cd_read_n :
    ((cdStores [(2, 0x00), (2, 0x02), (2, 0x16), (1, 0x02), (1, 0x06)] withDisc).cdAdvance 1000).cdPopWord.1 =
      0xC0B9B2AB ∧
      ((cdStores [(2, 0x00), (2, 0x02), (2, 0x16), (1, 0x02), (1, 0x06)] withDisc).cdAdvance 1000).cd.irqFlags = 0x07 ∧
      ((cdStores [(1, 0x06)] withDisc).cdAdvance 1000).cd.responseFifo = [0x23, 0x20] := by
  decide +kernel

/-- D15, D18, D8. -/
theorem test_cd_test_and_unknown :
    (cdStores [(2, 0x20), (1, 0x19)] State.reset).cd.responseFifo = [0x97, 0x01, 0x10, 0xC2] ∧
      (cdStores [(1, 0x50)] State.reset).cd.responseFifo = [0x01, 0x40] ∧
      (cdStores [(1, 0x50), (1, 0x01)] State.reset).cd.responseFifo = [0x00] := by
  decide +kernel

/-- D16, D17. -/
theorem test_cd_init_and_seek :
    ((cdStores [(0, 1), (2, 0x1F), (0, 0), (1, 0x0A)] State.reset).cd.irqFlags, (cdStores [(0, 1), (2, 0x1F), (0, 0),
      (1, 0x0A)] State.reset).iStat) = (0x02, 4) ∧
      ((cdStores [(1, 0x15), (1, 0x01)] State.reset).cd.delay, (cdStores [(1, 0x15), (1,
        0x01)] State.reset).cd.cdState) = (0, .idle) := by
  decide +kernel

/-- G4, G6, G3. -/
theorem test_gpustat_fields :
    look (stores [(0x1F801814, 0x0800007F)] State.reset) (·.gpu.stat) = some 0x14FF0000 ∧
      look (stores [(0x1F801810, 0xE1000FFF)] State.reset) (·.gpu.stat) = some 0x148087FF ∧
      look (stores [(0x1F801814, 0x04000003)] State.reset) (·.gpu.stat) = some 0x74800000 := by
  decide +kernel

/-- G8. -/
theorem test_draw_offset_is_signed :
    look (stores [(0x1F801810, 0xE50087FF), (0x1F801810, 0xE5000400)] State.reset) (·.trace) =
      some [.setDrawOffset (-1) 16, .setDrawOffset (-1024) 0] := by
  decide +kernel

/-- G12 with the colours of G10. -/
theorem test_shaded_triangle :
    look (Safety.gp0WriteAll [0x300000FF, 0xFFFFFFFF, 0x0000FF00, 0x80008000, 0x00FF0000,
      0x7FFF7FFF] State.reset) (·.trace) =
      some [.triangle ⟨-1, -1⟩ ⟨-32768, -32768⟩ ⟨32767, 32767⟩ ⟨255, 0, 0⟩ ⟨0, 255, 0⟩ ⟨0, 0, 255⟩] := by
  decide +kernel

/-- G13. -/
theorem test_image_round_trip :
    look (Safety.gp0WriteAll [0xA0000000, 0x0014000A, 0x00020002, 0x22221111, 0x44443333, 0xC0000000, 0x0014000A,
      0x00020002] State.reset)
      (fun t => (t.gpu.stat, t.gpuRead.1, t.gpuRead.2.gpuRead.1, t.gpuRead.2.gpuRead.2.gpu.stat)) =
      some (0x18800000, 0x22221111, 0x44443333, 0x14800000) := by
  decide +kernel

/-- G15. -/
theorem test_image_wraps_at_the_edges :
    look (Safety.gp0WriteAll [0xA0000000, 0x01FF03FF, 0x00020002, 0x22221111, 0x44443333] State.reset)
      (fun t => (t.pixel 1023 511, t.pixel 0 511, t.pixel 1023 0, t.pixel 0 0)) = some (0x1111, 0x2222, 0x3333, 0x4444) := by
  decide +kernel

/-- G19. -/
theorem test_fill_has_no_effect :
    look (Safety.gp0WriteAll [0x02FFFFFF, 0x00000000, 0x00100010] State.reset) (fun t => (t.gpu.stat, t.vram, t.trace)) =
      some (0x14800000, [], []) := by
  decide +kernel

/-- U9 and U13: the three model faults. -/
theorem test_gpu_faults :
    State.reset.gp0Write 0x03000000 = .fault .gp0UnknownOpcode ∧ State.reset.gp1Write 0x09000000 = .fault .gp1UnknownOpcode ∧
      (State.reset.setGpu { State.reset.gpu with gp0Mode := .vramToCpu }).gp0Write 0 = .fault .gp0WriteDuringRead :=
  ⟨rfl, rfl, rfl⟩

/-! ## Witnesses: for each statement with hypotheses, values that meet them -/

theorem decode_of_reads {w : Word} {i : Instr} (h : reads w i = true) : decode w = .ok i := by
  unfold reads at h
  split at h
  · rename_i j hj; rw [hj, eq_of_beq h]
  · cases h

theorem decode_of_rejects {w : Word} {e : DecodeError} (h : rejects w e = true) : decode w = .error e := by
  unfold rejects at h
  split at h
  · cases h
  · rename_i f hf; rw [hf, eq_of_beq h]

theorem canonical_of_wf {s : State} (h1 : Memory.wf Config.ramSize s.ram = true)
    (h2 : Memory.wf Config.biosSize s.bios = true)
    (h3 : Memory.wf Config.vramSize s.vram = true) : Safety.storesCanonical s := ⟨h1, h2, h3⟩

theorem witness_DecodeOfEncode : (Instr.sra 1 2 31).wellFormed = true ∧ (Instr.mfc0 31 31).wellFormed = true := by decide

theorem witness_DecodedWordsAreWellFormed : decode 0x35080FFF = .ok (.ori 8 8 0x0FFF) := rfl

theorem witness_ImmediateInstructionsWriteTheirResult :
    (0x3C081F00 : Word).extractLsb' 26 6 = 0x0F ∧ (0x35080FFF : Word).extractLsb' 26 6 = 0x0D ∧
      (0x3041FF00 : Word).extractLsb' 26 6 = 0x0C ∧ (0x24418000 : Word).extractLsb' 26 6 = 0x09 ∧
      (0x2841FFFF : Word).extractLsb' 26 6 = 0x0A ∧ (0x2C417FFF : Word).extractLsb' 26 6 = 0x0B := by decide

theorem witness_ShiftsWriteTheirResult :
    (31 : Nat) < 32 ∧ (0x00020900 : Word).extractLsb' 26 6 = 0x00 ∧ (0x00020900 : Word).extractLsb' 0 6 = 0x00 ∧
      (0x00020902 : Word).extractLsb' 26 6 = 0x00 ∧ (0x00020902 : Word).extractLsb' 0 6 = 0x02 ∧
      (0x00020FC3 : Word).extractLsb' 26 6 = 0x00 ∧ (0x00020FC3 : Word).extractLsb' 0 6 = 0x03 ∧
      (0x00620804 : Word).extractLsb' 26 6 = 0x00 ∧ (0x00620804 : Word).extractLsb' 0 6 = 0x04 ∧
      (0x00620806 : Word).extractLsb' 26 6 = 0x00 ∧ (0x00620806 : Word).extractLsb' 0 6 = 0x06 ∧
      (0x00620807 : Word).extractLsb' 26 6 = 0x00 ∧ (0x00620807 : Word).extractLsb' 0 6 = 0x07 := by decide

theorem witness_RegisterInstructionsWriteTheirResult :
    (0x00430821 : Word).extractLsb' 26 6 = 0x00 ∧ (0x00430821 : Word).extractLsb' 0 6 = 0x21 ∧
      (0x00430823 : Word).extractLsb' 26 6 = 0x00 ∧ (0x00430823 : Word).extractLsb' 0 6 = 0x23 ∧
      (0x00430824 : Word).extractLsb' 26 6 = 0x00 ∧ (0x00430824 : Word).extractLsb' 0 6 = 0x24 ∧
      (0x00430825 : Word).extractLsb' 26 6 = 0x00 ∧ (0x00430825 : Word).extractLsb' 0 6 = 0x25 ∧
      (0x00430826 : Word).extractLsb' 26 6 = 0x00 ∧ (0x00430826 : Word).extractLsb' 0 6 = 0x26 ∧
      (0x00430827 : Word).extractLsb' 26 6 = 0x00 ∧ (0x00430827 : Word).extractLsb' 0 6 = 0x27 ∧
      (0x0043082A : Word).extractLsb' 26 6 = 0x00 ∧ (0x0043082A : Word).extractLsb' 0 6 = 0x2A ∧
      (0x0043082B : Word).extractLsb' 26 6 = 0x00 ∧ (0x0043082B : Word).extractLsb' 0 6 = 0x2B := by decide

theorem witness_AddAndSubtractDeliverOrTrap_words :
    (0x2041FFFF : Word).extractLsb' 26 6 = 0x08 ∧ (0x00430820 : Word).extractLsb' 26 6 = 0x00 ∧
      (0x00430820 : Word).extractLsb' 0 6 = 0x20 ∧ (0x00430822 : Word).extractLsb' 26 6 = 0x00 ∧
      (0x00430822 : Word).extractLsb' 0 6 = 0x22 := by decide

/-- The largest and smallest results that fit, and the first on either side that do not. -/
theorem witness_AddAndSubtractDeliverOrTrap :
    (let r := ((cpu 0x7FFFFFFF 0).x 2).toInt + (0 : Half).toInt; -2 ^ 31 ≤ r ∧ r < 2 ^ 31) ∧
      (let r := ((cpu 0x80000000 0).x 2).toInt + (0xFFFF : Half).toInt; ¬(-2 ^ 31 ≤ r ∧ r < 2 ^ 31)) ∧
      (let r := ((cpu 0x80000000 0).x 2).toInt + ((cpu 0x80000000 0).x 3).toInt; -2 ^ 31 ≤ r ∧ r < 2 ^ 31) ∧
      (let r := ((cpu 0x7FFFFFFF 1).x 2).toInt + ((cpu 0x7FFFFFFF 1).x 3).toInt; ¬(-2 ^ 31 ≤ r ∧ r < 2 ^ 31)) ∧
      (let r := ((cpu 0x7FFFFFFF 0).x 2).toInt - ((cpu 0x7FFFFFFF 0).x 3).toInt; -2 ^ 31 ≤ r ∧ r < 2 ^ 31) ∧
      (let r := ((cpu 0 0x80000000).x 2).toInt - ((cpu 0 0x80000000).x 3).toInt; ¬(-2 ^ 31 ≤ r ∧ r < 2 ^ 31)) := by
  decide +kernel

theorem witness_ProductsAreExact :
    (0x00430018 : Word).extractLsb' 26 6 = 0x00 ∧ (0x00430018 : Word).extractLsb' 0 6 = 0x18 ∧
      (0x00430019 : Word).extractLsb' 26 6 = 0x00 ∧ (0x00430019 : Word).extractLsb' 0 6 = 0x19 := by decide

theorem witness_DivisionsWriteQuotientAndRemainder :
    (0x0043001A : Word).extractLsb' 26 6 = 0x00 ∧ (0x0043001A : Word).extractLsb' 0 6 = 0x1A ∧
      (0x0043001B : Word).extractLsb' 26 6 = 0x00 ∧ (0x0043001B : Word).extractLsb' 0 6 = 0x1B := by decide

theorem witness_HiLoMoves :
    (0x00000810 : Word).extractLsb' 26 6 = 0x00 ∧ (0x00000810 : Word).extractLsb' 0 6 = 0x10 ∧
      (0x00000812 : Word).extractLsb' 26 6 = 0x00 ∧ (0x00000812 : Word).extractLsb' 0 6 = 0x12 ∧
      (0x00400011 : Word).extractLsb' 26 6 = 0x00 ∧ (0x00400011 : Word).extractLsb' 0 6 = 0x11 ∧
      (0x00400013 : Word).extractLsb' 26 6 = 0x00 ∧ (0x00400013 : Word).extractLsb' 0 6 = 0x13 := by decide

theorem witness_AlignedLoadsAreDelayed_words :
    (0x8C41FFFC : Word).extractLsb' 26 6 = 0x23 ∧ (0x84010202 : Word).extractLsb' 26 6 = 0x21 ∧
      (0x94010202 : Word).extractLsb' 26 6 = 0x25 ∧ (0x80010203 : Word).extractLsb' 26 6 = 0x20 ∧
      (0x90010203 : Word).extractLsb' 26 6 = 0x24 := by decide

/-- The last aligned word and half-word addresses. -/
theorem witness_AlignedLoadsAreDelayed :
    ((cpu 0 0).x 0 + BitVec.ofInt 32 (0xFFFC : Half).toInt).toNat % 4 = 0 ∧
      ((cpu 0 0).x 0 + BitVec.ofInt 32 (0xFFFE : Half).toInt).toNat % 2 = 0 := by
  decide +kernel

theorem witness_StoresToRamWriteTheirBytes_words :
    (0xAC020204 : Word).extractLsb' 26 6 = 0x2B ∧ (0xA4020206 : Word).extractLsb' 26 6 = 0x29 ∧
      (0xA0020205 : Word).extractLsb' 26 6 = 0x28 := by decide

/-- The last word, half-word and byte of RAM, through the three segments. -/
theorem witness_StoresToRamWriteTheirBytes :
    Safety.storesCanonical (cpu 0x001FFFFC 0) ∧ (cpu 0x001FFFFC 0).sr.getLsbD 16 = false ∧
      (Safety.ramAddress ((cpu 0x001FFFFC 0).effectiveAddress 2 0) 0x1FFFFC ∧
        ((cpu 0x001FFFFC 0).effectiveAddress 2 0).toNat % 4 = 0) ∧
      (Safety.ramAddress ((cpu 0x801FFFFC 0).effectiveAddress 2 2) 0x1FFFFE ∧
        ((cpu 0x801FFFFC 0).effectiveAddress 2 2).toNat % 2 = 0) ∧
      Safety.ramAddress ((cpu 0xA01FFFFC 0).effectiveAddress 2 3) 0x1FFFFF := by
  refine ⟨canonical_of_wf rfl rfl rfl, ?_⟩
  unfold Safety.ramAddress
  decide +kernel

/-- An isolated cache, both ends of the BIOS, an address no device has, and both ends of the DMA block and the GPU ports. -/
theorem witness_DroppedAndNarrowStoresComplete :
    ({ cpu 0x200 0 with sr := 0x00010000 } : State).sr.getLsbD 16 = true ∧
      (Machine.translate ((cpu 0xBFC00000 0).effectiveAddress 2 0)).toNat = 0x1FC00000 ∧
      (Machine.translate ((cpu 0x1FC7FFFE 0).effectiveAddress 2 1)).toNat = 0x1FC7FFFF ∧
      deviceAt (Machine.translate ((cpu 0x00200000 0).effectiveAddress 2 0)) = none ∧
      ((cpu 0x00200000 0).effectiveAddress 2 0).toNat % 4 = 0 ∧
      (Machine.translate ((cpu 0x1F801080 0).effectiveAddress 2 0)).toNat = 0x1F801080 ∧
      (Machine.translate ((cpu 0x1F8010FE 0).effectiveAddress 2 1)).toNat = 0x1F8010FF ∧
      (Machine.translate ((cpu 0x1F801810 0).effectiveAddress 2 0)).toNat = 0x1F801810 ∧
      (Machine.translate ((cpu 0x1F801816 0).effectiveAddress 2 1)).toNat = 0x1F801817 := by
  decide +kernel

theorem witness_MisalignedAccessesTrap :
    ((cpu 0 0).x 0 + BitVec.ofInt 32 (0xFFFD : Half).toInt).toNat % 4 ≠ 0 ∧
      ((cpu 0 0).x 0 + BitVec.ofInt 32 (0xFFFD : Half).toInt).toNat % 2 ≠ 0 ∧
      ((cpu 0 0).x 0 + BitVec.ofInt 32 (0x0002 : Half).toInt).toNat % 4 ≠ 0 := by
  decide +kernel

theorem witness_JumpsWriteNextPcAndLink :
    (0x0BFFFFFF : Word).extractLsb' 26 6 = 0x02 ∧ (0x0C000100 : Word).extractLsb' 26 6 = 0x03 ∧
      (0x00400008 : Word).extractLsb' 26 6 = 0x00 ∧ (0x00400008 : Word).extractLsb' 0 6 = 0x08 ∧
      (0x0040F809 : Word).extractLsb' 26 6 = 0x00 ∧ (0x0040F809 : Word).extractLsb' 0 6 = 0x09 := by decide

theorem witness_BranchesWriteNextPcWhenTaken :
    (0x10430003 : Word).extractLsb' 26 6 = 0x04 ∧ (0x1443FFFC : Word).extractLsb' 26 6 = 0x05 ∧
      (0x18400002 : Word).extractLsb' 26 6 = 0x06 ∧ (0x1C400002 : Word).extractLsb' 26 6 = 0x07 ∧
      (0x04400002 : Word).extractLsb' 26 6 = 0x01 ∧ (0x04400002 : Word).extractLsb' 16 5 = 0x00 ∧
      (0x04410002 : Word).extractLsb' 26 6 = 0x01 ∧ (0x04410002 : Word).extractLsb' 16 5 = 0x01 ∧
      (0x04500002 : Word).extractLsb' 26 6 = 0x01 ∧ (0x04500002 : Word).extractLsb' 16 5 = 0x10 ∧
      (0x07F10002 : Word).extractLsb' 26 6 = 0x01 ∧ (0x07F10002 : Word).extractLsb' 16 5 = 0x11 := by decide

theorem witness_SyscallAndBreakTakeTheirException :
    (0x0048D14C : Word).extractLsb' 26 6 = 0x00 ∧ (0x0048D14C : Word).extractLsb' 0 6 = 0x0C ∧
      (0x0000000D : Word).extractLsb' 26 6 = 0x00 ∧ (0x0000000D : Word).extractLsb' 0 6 = 0x0D := by decide

theorem witness_MoveFromCop0 :
    (31 : Nat) < 32 ∧ (0x40026000 : Word).extractLsb' 26 6 = 0x10 ∧ (0x40026000 : Word).extractLsb' 21 5 = 0x00 := by decide

theorem witness_MoveToCop0 :
    (31 : Nat) < 32 ∧ (0x40826800 : Word).extractLsb' 26 6 = 0x10 ∧ (0x40826800 : Word).extractLsb' 21 5 = 0x04 := by decide

theorem witness_ReturnFromExceptionPopsTheStack :
    (0x42000010 : Word).extractLsb' 26 6 = 0x10 ∧ (0x42000010 : Word).extractLsb' 21 5 = 0x10 ∧
      (0x42000010 : Word).extractLsb' 0 6 = 0x10 := by decide

theorem witness_OnlyStoresWriteMemory :
    (∃ t, exec (.addiu 1 2 1) (cpu 0 0) = .next t) ∧
      ∀ rt offset base, Instr.addiu 1 2 1 ≠ .sw rt offset base ∧ Instr.addiu 1 2 1 ≠ .sh rt offset base ∧
        Instr.addiu 1 2 1 ≠ .sb rt offset base :=
  ⟨next_of_goesOn (by decide +kernel), fun _ _ _ => ⟨nofun, nofun, nofun⟩⟩

theorem witness_InstructionsCompleteOrTakeOneException :
    (∃ t, exec (.addiu 1 2 1) (cpu 0 0) = .next t) ∧ Instr.addiu 1 2 1 ≠ .rfe ∧ (∀ rt n, Instr.addiu 1 2 1 ≠ .mtc0 rt n) ∧
      ∀ a b, Instr.addiu 1 2 1 ≠ .mult a b ∧ Instr.addiu 1 2 1 ≠ .multu a b ∧ Instr.addiu 1 2 1 ≠ .div a b ∧
        Instr.addiu 1 2 1 ≠ .divu a b ∧ Instr.addiu 1 2 1 ≠ .mthi a ∧ Instr.addiu 1 2 1 ≠ .mtlo a :=
  ⟨next_of_goesOn (by decide +kernel), nofun, fun _ _ => nofun, fun _ _ => ⟨nofun, nofun, nofun, nofun, nofun, nofun⟩⟩

theorem witness_StepRunsTheDecodedInstruction :
    boot.poll.interruptDue = false ∧ boot.pc.toNat % 4 = 0 ∧
      decode (boot.poll.latch.memRead boot.pc .word).1 = .ok (.lui 8 0x1F00) :=
  ⟨by decide +kernel, by decide +kernel, decode_of_reads (by decide +kernel)⟩

theorem witness_InterruptIsTakenBeforeTheFetch :
    Safety.causeReserved State.reset ∧
      (let s := { State.reset with sr := 0x401, iStat := 0x400, iMask := 0x400 }
       s.sr.getLsbD 0 = true ∧ s.sr.getLsbD 10 = true ∧ s.iStat &&& s.iMask ≠ 0) := by
  unfold Safety.causeReserved
  decide +kernel

theorem witness_MisalignedFetchTraps :
    (let s := { State.reset with pc := 0x80000203 }
     s.poll.interruptDue = false ∧ s.pc.toNat % 4 ≠ 0) ∧
      (let s := { State.reset with pc := 0xFFFFFFFE }
       s.poll.interruptDue = false ∧ s.pc.toNat % 4 ≠ 0) := by
  decide +kernel

theorem witness_UnmatchedWordsTrapOrAreRefused :
    (decode 0xFC000000 = .error .reservedInstruction ∧ (0xFC000000 : Word).extractLsb' 26 6 ≠ 0x01 ∧
        (0xFC000000 : Word).extractLsb' 26 6 ≠ 0x10) ∧
      (decode 0x04020000 = .error .regimmSelector ∧ (0x04020000 : Word).extractLsb' 26 6 = 0x01) ∧
      (decode 0x42000011 = .error .cop0SubOpcode ∧ (0x42000011 : Word).extractLsb' 26 6 = 0x10) :=
  ⟨⟨decode_of_rejects (by decide), by decide, by decide⟩, ⟨decode_of_rejects (by decide), by decide⟩,
    ⟨decode_of_rejects (by decide), by decide⟩⟩

/-- The last word of RAM; then a second load of the register that is landing. -/
theorem witness_LoadDelaySlotReadsTheOldValue :
    Safety.ramAddress ((cpu 0x001FFFFC 0).effectiveAddress 2 0) 0x1FFFFC ∧ 0x1FFFFC % 4 = 0 ∧ (1 : Reg) ≠ 0 ∧ (3 : Reg) ≠ 0 ∧
      (3 : Reg) ≠ 1 ∧ (cpu 0x001FFFFC 0).pending.index ≠ 1 ∧
      (let s := { cpu 0 0 with pending := { index := 1, value := 0xAA } }
       s.params.loadDiscard = true ∧ s.pending.index = 1 ∧ (s.effectiveAddress 0 0x204).toNat % 4 = 0) := by
  unfold Safety.ramAddress
  decide +kernel

/-- The first and the last word of RAM. -/
theorem witness_RamReadsWhatWasWritten :
    Safety.ramAddress 0x80000000 0 ∧ Safety.ramAddress 0x001FFFFC 0x1FFFFC ∧ 0x1FFFFC % 4 = 0 ∧
      Safety.ramAddress 0xA01FFFFE 0x1FFFFE ∧ 0x1FFFFE % 2 = 0 ∧ Safety.ramAddress 0x001FFFFF 0x1FFFFF ∧
      (cpu 0 0).sr.getLsbD 16 = false ∧ Safety.storesCanonical (cpu 0 0) := by
  have h : Safety.storesCanonical (cpu 0 0) := canonical_of_wf rfl rfl rfl
  unfold Safety.ramAddress
  refine ⟨by decide, by decide, by decide, by decide, by decide, by decide, by decide +kernel, h⟩

/-- Both ends of every range. -/
theorem witness_ConstantRangesAndIsolationDropStores :
    (Machine.translate 0x9F000000).toNat = 0x1F000000 ∧ (Machine.translate 0x1F7FFFFF).toNat = 0x1F7FFFFF ∧
      (Machine.translate 0xBF801C00).toNat = 0x1F801C00 ∧ (Machine.translate 0x1F801E7F).toNat = 0x1F801E7F ∧
      (Machine.translate 0xBFC00000).toNat = 0x1FC00000 ∧ (Machine.translate 0x1FC7FFFF).toNat = 0x1FC7FFFF ∧
      (Machine.translate 0x80200000).toNat = 0x00200000 ∧ (Machine.translate 0x1EFFFFFF).toNat = 0x1EFFFFFF ∧
      (Machine.translate 0x1FC80000).toNat = 0x1FC80000 ∧ (Machine.translate 0xFFFE012F).toNat = 0xFFFE012F ∧
      (Machine.translate 0xFFFE0134).toNat = 0xFFFE0134 ∧ (0x00010000 : Word).getLsbD 16 = true := by
  decide

theorem witness_InterruptRegistersAcknowledgeAndMask :
    State.reset.sr.getLsbD 16 = false ∧ Width.half ≠ .byte ∧ Width.word ≠ .byte ∧ 10 ≤ 10 := by
  decide

/-- Enable without a trigger, and a trigger without enable. -/
theorem witness_InactiveChcrStoreOnlyWritesItsRegister :
    let inactive (v : Word) := ¬(v.getLsbD 24 = true ∧ (v.extractLsb' 9 2 ≠ 0 ∨ v.getLsbD 28 = true))
    State.reset.sr.getLsbD 16 = false ∧ inactive 0x01000002 ∧ inactive 0x10000002 := by
  decide

/-- A CHCR value that activates a channel, for each clause. -/
theorem witness_MeaninglessActivationsAreRefused :
    let active (v : Word) := v.getLsbD 24 = true ∧ (v.extractLsb' 9 2 ≠ 0 ∨ v.getLsbD 28 = true)
    State.reset.sr.getLsbD 16 = false ∧ active 0x11000000 ∧ (active 0x11000001 ∧ (0x11000001 : Word).getLsbD 0 = true) ∧
      (active 0x01000402 ∧ (0x01000402 : Word).getLsbD 0 = false ∧ (0x01000402 : Word).getLsbD 10 = true) ∧
      (active 0x01000400 ∧ (0x01000400 : Word).getLsbD 10 = true ∧ (0x01000400 : Word).getLsbD 0 = false) ∧
      (active 0x01000601 ∧ (0x01000601 : Word).getLsbD 10 = true ∧ (0x01000601 : Word).getLsbD 9 = true) := by
  decide

/-- A channel 6 set up for the OTC transfer. -/
def otc (madr : BitVec 24) (bcr : Word) : State := State.reset.setDmaChannel 6 { madr := madr, bcr := bcr, chcr := 0 }

/-- Four entries, the longest table at its lowest address, and one entry in the last word of RAM. -/
theorem witness_OtcTransferBuildsTheTable :
    let fits (s : State) (base count : Nat) : Prop :=
      s.sr.getLsbD 16 = false ∧ base = ((s.dmaChannel 6).madr.toNat / 4) * 4 ∧
        count = (if (s.dmaChannel 6).bcr.toNat % 65536 = 0 then 65536 else (s.dmaChannel 6).bcr.toNat % 65536) ∧
        4 * (count - 1) ≤ base ∧ base + 4 ≤ 0x200000
    Safety.storesCanonical (otc 0x102 4) ∧ fits (otc 0x102 4) 0x100 4 ∧ fits (otc 0x3FFFC 0) 0x3FFFC 65536 ∧
      fits (otc 0x1FFFFC 1) 0x1FFFFC 1 := by
  refine ⟨canonical_of_wf rfl rfl rfl, ?_⟩
  decide +kernel

theorem witness_LinkedListForwardsThePayloads :
    2 ≤ packetLimit ∧ Safety.packetChain packets 2 0x1000 [0xE1000000, 0xE3001407] := by
  have h1 : packets.dmaRamRead 0x1000 = 0x02001010 := by decide +kernel
  have h2 : packets.dmaRamRead (dmaAddress 0x02001010) = 0x00FFFFFF := by decide +kernel
  refine ⟨by decide, ?_⟩
  unfold Safety.packetChain
  rw [h1]
  dsimp only
  rw [if_neg (by decide)]
  refine ⟨[], by decide +kernel, ?_⟩
  unfold Safety.packetChain
  rw [h2]
  dsimp only
  rw [if_pos (by decide)]
  decide +kernel

theorem witness_DicrFollowsItsMasterFormula : State.reset.sr.getLsbD 16 = false := by decide

theorem witness_TimerModeRegister : State.reset.sr.getLsbD 16 = false := by decide

theorem witness_CdCommandsAcknowledge :
    (0x50 : Byte) ≠ 0x0A ∧ (cdStores [(0, 1), (2, 0x1F), (0, 0)] State.reset).cd.irqEnable.getLsbD 2 = true ∧
      (0x50 : Byte) ≠ 0x06 ∧ (0x50 : Byte) ≠ 0x15 ∧ (0x50 : Byte) ≠ 0x1A ∧
      (0x50 : Byte) ∉ [(0x01 : Byte), 0x02, 0x06, 0x08, 0x09, 0x0A, 0x0E, 0x15, 0x19, 0x1A] := by
  decide +kernel

theorem witness_CdSetLocSetsTheTarget :
    (cdStores [(2, 0x99), (2, 0x59), (2, 0x74)] State.reset).cd.paramFifo = 0x99 :: 0x59 :: 0x74 :: [] ∧
      (cdStores [(2, 0x00), (2, 0x02)] State.reset).cd.paramFifo.length < 3 := by
  decide +kernel

theorem witness_CdGetIdWithoutADiscFails :
    State.reset.cd.discPresent = false ∧ State.reset.cd.playing = false ∧ 1 ≤ State.reset.params.cdDelayGetId ∧
      State.reset.params.cdDelayGetId ≤ 1000 := by
  decide

theorem witness_CdReadNDeliversOneSector :
    let s := cdStores [(2, 0x00), (2, 0x02), (2, 0x16), (1, 0x02), (1, 0x06)] withDisc
    let u := cdStores [(1, 0x06)] withDisc
    (s.cd.pendingCmd = 0x06 ∧ 0 < s.cd.delay ∧ s.cd.delay ≤ 1000 ∧ s.cd.readTarget = some sector) ∧
      (u.cd.pendingCmd = 0x06 ∧ 0 < u.cd.delay ∧ u.cd.delay ≤ 1000 ∧ u.cd.readTarget = none) := by
  decide +kernel

theorem witness_Gp1ResetRestoresTheGpu :
    State.reset.sr.getLsbD 16 = false ∧ (0x00FFFFFF : Word).extractLsb' 24 8 = 0x00 := by decide

theorem witness_DrawingCommandsEmitTriangles :
    State.reset.gpu.gp0Mode = .command ∧ State.reset.gpu.cmdRemaining = 0 ∧ (0x300000FF : Word).extractLsb' 24 8 = 0x30 ∧
      (0x380000FF : Word).extractLsb' 24 8 = 0x38 ∧ (0x28808080 : Word).extractLsb' 24 8 = 0x28 ∧
      (0x2C808080 : Word).extractLsb' 24 8 = 0x2C := by
  decide

/-- The opcodes next to the tables' ends. -/
theorem witness_UnknownGpuWordsFault :
    State.reset.sr.getLsbD 16 = false ∧ State.reset.gpu.gp0Mode = .command ∧ State.reset.gpu.cmdRemaining = 0 ∧
      (0x03000000 : Word).extractLsb' 24 8 ∉
        [(0x00 : Byte), 0x01, 0x02, 0x28, 0x2C, 0x30, 0x38, 0xA0, 0xC0, 0xE1, 0xE2, 0xE3, 0xE4, 0xE5, 0xE6] ∧
      (State.reset.setGpu { State.reset.gpu with gp0Mode := .vramToCpu }).gpu.gp0Mode = .vramToCpu ∧
      8 < ((0x09000000 : Word).extractLsb' 24 8).toNat := by
  decide

/-- The smallest and the largest image, and one of an odd number of pixels. -/
theorem witness_ImageReadBackReturnsTheLoadedPixels :
    Safety.storesCanonical State.reset ∧ State.reset.gpu.gp0Mode = .command ∧ State.reset.gpu.cmdRemaining = 0 ∧
      ([0x1234] : List Word).length = (1 * 1 + 1) / 2 ∧ ([1, 2] : List Word).length = (3 * 1 + 1) / 2 ∧
      (List.replicate 262144 (0 : Word)).length = (1024 * 512 + 1) / 2 :=
  ⟨canonical_of_wf rfl rfl rfl, rfl, rfl, rfl, rfl, List.length_replicate⟩

theorem witness_StepBoundaryAdvancesDevices : State.reset.inputs = [] := rfl

theorem boot_goes_on : ∃ t, step boot = .next t := next_of_goesOn (by decide +kernel)

theorem witness_StepKeepsTheCpuInvariant :
    Safety.zeroRegister boot ∧ Safety.causeReserved boot ∧ Safety.causeCode boot ∧ ∃ t, step boot = .next t := by
  refine ⟨?_, ?_, ?_, boot_goes_on⟩
  · unfold Safety.zeroRegister; decide +kernel
  · unfold Safety.causeReserved; decide +kernel
  · unfold Safety.causeCode; decide +kernel

theorem witness_StepKeepsTheStoresCanonical : Safety.storesCanonical boot ∧ ∃ t, step boot = .next t :=
  ⟨canonical_of_wf (by decide +kernel) (by decide +kernel) (by decide +kernel), boot_goes_on⟩

theorem witness_StepKeepsTheDmaInvariant :
    Safety.noChannelActive boot ∧ Safety.dicrReserved boot ∧ Safety.dicrMasterFollows boot ∧ ∃ t, step boot = .next t := by
  refine ⟨?_, ?_, ?_, boot_goes_on⟩
  · unfold Safety.noChannelActive; decide +kernel
  · unfold Safety.dicrReserved; decide +kernel
  · unfold Safety.dicrMasterFollows; decide +kernel

theorem witness_StepKeepsTheDeviceInvariant :
    boot.params.wellFormed = true ∧ Safety.timerFractions boot ∧ Safety.cdBounds boot.cd ∧ Safety.gpuBounds boot.gpu ∧
      ∃ t, step boot = .next t := by
  refine ⟨by decide +kernel, ?_, ?_, ?_, boot_goes_on⟩
  · unfold Safety.timerFractions; decide +kernel
  · unfold Safety.cdBounds; decide +kernel
  · unfold Safety.gpuBounds; decide +kernel

end Tests
end Sys2Proof
end

section
/-! The state's invariants: reset meets them, and every step keeps register 0, CAUSE and the stores (10_state, 60_exceptions). -/

namespace Sys2Proof
namespace Machine

open Safety

/-! ## Reset -/

/-- Settles O55: each invariant is evaluated on the one state that reset gives. -/
theorem resetMeetsTheInvariants : Obligations.ResetMeetsTheInvariants := by
  unfold Obligations.ResetMeetsTheInvariants
  have zero : zeroRegister State.reset := by unfold zeroRegister; decide
  have reserved : causeReserved State.reset := by unfold causeReserved; decide
  have code : causeCode State.reset := by unfold causeCode; decide
  have dicr : dicrReserved State.reset := by unfold dicrReserved; decide
  have master : dicrMasterFollows State.reset := by unfold dicrMasterFollows; decide
  have inactive : noChannelActive State.reset := by unfold noChannelActive; decide
  have fractions : timerFractions State.reset := by unfold timerFractions; decide
  have cd : cdBounds State.reset.cd :=
    cdBounds_of_idle (by unfold cdLengths; decide) rfl rfl (by unfold cdBusy; decide)
  have gpu : gpuBounds State.reset.gpu := gpuBounds_command rfl (by decide) (by decide)
  exact ⟨zero, reserved, code, ⟨rfl, rfl, rfl⟩, dicr, master, inactive, fractions, cd, gpu, by decide⟩

/-! ## The stores -/

theorem biosByte_of_bios_eq {s t : State} (h : t.bios = s.bios) (k : Nat) : t.biosByte k = s.biosByte k := by
  unfold State.biosByte; rw [h]

/-- Settles O57: every device operation keeps the canonical form and the BIOS cells (`kept_stores`), so a step does. -/
theorem stepKeepsTheStoresCanonical : Obligations.StepKeepsTheStoresCanonical := by
  unfold Obligations.StepKeepsTheStoresCanonical
  intro s t h ht
  obtain ⟨canonical, bios⟩ := (kept_stores s.bios).step ⟨h, rfl⟩ ht
  exact ⟨canonical, biosByte_of_bios_eq bios⟩

/-! ## What a CPU step can do -/

/-- Executing a fetched word that answers a next state: an instruction's meaning, or code 10 for a word outside the table. -/
theorem execute_cases {s t : State} {w : Word} (h : s.execute w = .next t) :
    (∃ i, decode w = .ok i ∧ exec i s = .next t) ∨
      ((decode w = .error .reservedInstruction ∨ decode w = .error .tooShort) ∧ t = s.raise .reservedInstruction) := by
  unfold State.execute at h
  split at h
  case h_1 i hi => exact .inl ⟨i, hi, h⟩
  case h_2 e he =>
    cases e with
    | reservedInstruction => cases h; exact .inr ⟨.inl he, rfl⟩
    | tooShort => cases h; exact .inr ⟨.inr he, rfl⟩
    | regimmSelector => cases h
    | cop0SubOpcode => cases h

/-- A CPU step that answers a next state takes the interrupt, takes the address error of its fetch, or executes the fetched word
and forces register 0 (40_cpu_step R160). -/
theorem cpuStep_cases {s t : State} (h : s.cpuStep = .next t) :
    (s.poll.interruptDue = true ∧ t = s.poll.takeInterrupt) ∨
      (s.poll.interruptDue = false ∧ s.poll.latch.fetchAligned = false ∧ t = s.poll.latch.takeFetchError) ∨
      (s.poll.interruptDue = false ∧ s.poll.latch.fetchAligned = true ∧
        ∃ u, s.poll.latch.fetch.2.advance.execute s.poll.latch.fetch.1 = .next u ∧ t = u.forceZero) := by
  unfold State.cpuStep at h
  dsimp only at h
  split at h
  case isTrue due => cases h; exact .inl ⟨due, rfl⟩
  case isFalse due =>
    rw [Bool.not_eq_true] at due
    unfold State.runInstruction at h
    dsimp only at h
    split at h
    case isTrue aligned =>
      obtain ⟨u, hu, hf⟩ := andThen_eq_next h
      cases hf
      exact .inr (.inr ⟨due, aligned, u, hu, rfl⟩)
    case isFalse aligned => cases h; exact .inr (.inl ⟨due, by simpa using aligned, rfl⟩)

/-! ## The step boundary leaves the CPU -/

/-- `t` differs from `s` at most in the devices, the stores, the step counter and the script: every CPU and COP0 register is as it
was. -/
def sameCpu (s t : State) : Prop :=
  t = { s with
    iStat := t.iStat, iMask := t.iMask, ram := t.ram, vram := t.vram, dma := t.dma, timers := t.timers, cd := t.cd,
    gpu := t.gpu, trace := t.trace, stepCount := t.stepCount, freeCount := t.freeCount, inputs := t.inputs }

theorem sameCpu_trans {s t u : State} (h : sameCpu s t) (k : sameCpu t u) : sameCpu s u := by
  unfold sameCpu at *; rw [k, h]

theorem sameCpu_of_devicesOnly {s t : State} (h : devicesOnly s t) : sameCpu s t := by
  unfold devicesOnly at h; unfold sameCpu; rw [h]

theorem regs_of_sameCpu {s t : State} (h : sameCpu s t) : t.regs = s.regs := by unfold sameCpu at h; rw [h]

theorem cause_of_sameCpu {s t : State} (h : sameCpu s t) : t.cause = s.cause := by unfold sameCpu at h; rw [h]

theorem sameCpu_environmentAction (s : State) (a : EnvAction) : sameCpu s (s.environmentAction a) := by
  cases a with
  | loadDisc source => rfl
  | requestIrq line => unfold State.environmentAction; dsimp only; split <;> rfl

theorem sameCpu_environmentActions (l : List EnvAction) (s : State) :
    sameCpu s (l.foldl State.environmentAction s) := by
  induction l generalizing s with
  | nil => rfl
  | cons a l ih => exact sameCpu_trans (sameCpu_environmentAction s a) (ih _)

theorem sameCpu_advanceWhenDue (s : State) : sameCpu s s.advanceWhenDue := by
  unfold State.advanceWhenDue
  split
  · exact sameCpu_of_devicesOnly (devicesOnly_advanceDevices s _)
  · rfl

theorem sameCpu_presentWhenDue (s : State) : sameCpu s s.presentWhenDue := by
  unfold State.presentWhenDue; split <;> rfl

theorem sameCpu_environmentTurn (s : State) : sameCpu s s.environmentTurn := by
  unfold State.environmentTurn
  split
  case h_1 => rfl
  case h_2 now later _ =>
    exact sameCpu_trans (rfl : sameCpu s { s with inputs := later }) (sameCpu_environmentActions now _)

/-- Nothing between two CPU steps writes a CPU register (70_reset_and_hazards R560, R564). -/
theorem sameCpu_stepBoundary (s : State) : sameCpu s s.stepBoundary :=
  sameCpu_trans (sameCpu_trans (sameCpu_trans (rfl : sameCpu s s.countStep) (sameCpu_advanceWhenDue _))
    (sameCpu_presentWhenDue _)) (sameCpu_environmentTurn _)

/-! ## Register 0 -/

/-- An executed instruction ends by forcing register 0; an exception before execution writes no register (40_cpu_step R168). -/
theorem zeroRegister_cpuStep {s t : State} (hz : zeroRegister s) (h : s.cpuStep = .next t) : zeroRegister t := by
  rcases cpuStep_cases h with ⟨-, rfl⟩ | ⟨-, -, rfl⟩ | ⟨-, -, u, -, rfl⟩
  · exact hz
  · exact hz
  · simp [zeroRegister, State.forceZero]

/-! ## CAUSE -/

/-- The two conditions on CAUSE as one condition on its value: reserved bits 0, a legal code (10_state R42; 60_exceptions R291). -/
def causeValid (c : Word) : Prop := c &&& 0x4FFFF883 = 0 ∧ legalCode (c.extractLsb' 2 5) = true

theorem causeValid_iff (s : State) : causeValid s.cause ↔ causeReserved s ∧ causeCode s := Iff.rfl

/-- A masked word is 0 exactly when every bit that the mask selects is 0. -/
theorem and_mask_eq_zero_iff (c m : Word) :
    c &&& m = 0 ↔ ∀ i < 32, m.getLsbD i = true → c.getLsbD i = false := by
  constructor
  · intro h i _ hm
    simpa [hm] using congrArg (fun w => BitVec.getLsbD w i) h
  · intro h
    apply BitVec.eq_of_getLsbD_eq
    intro i hi
    cases hm : m.getLsbD i with
    | false => simp [hm]
    | true => simp [h i hi hm]

theorem legalCode_code (e : Exception) : legalCode e.code = true := by cases e <;> rfl

/-- A write of CAUSE bits 10:8 meets neither a reserved bit nor the code. -/
theorem causeValid_setField {c : Word} (h : causeValid c) (lo : Nat) {len : Nat} (v : BitVec len) (h8 : 8 ≤ lo)
    (h11 : lo + len ≤ 11) : causeValid (setField c lo v) := by
  obtain ⟨reserved, code⟩ := h
  have outside (i : Nat) (hi : ¬ (8 ≤ i ∧ i < 11)) : (setField c lo v).getLsbD i = c.getLsbD i := by
    rw [getLsbD_setField _ _ _ (by omega), if_neg (by omega)]
  refine ⟨(and_mask_eq_zero_iff _ _).2 fun i hi hm => ?_, ?_⟩
  · have hr : ∀ i < 32, (0x4FFFF883 : Word).getLsbD i = true → ¬ (8 ≤ i ∧ i < 11) := by decide
    rw [outside i (hr i hi hm)]
    exact (and_mask_eq_zero_iff _ _).1 reserved i hi hm
  · have kept : (setField c lo v).extractLsb' 2 5 = c.extractLsb' 2 5 := by
      apply BitVec.eq_of_getLsbD_eq
      intro i hi
      rw [BitVec.getLsbD_extractLsb', BitVec.getLsbD_extractLsb', outside _ (by omega)]
    rw [kept]
    exact code

/-- Exception entry leaves the reserved bits and records its own code (60_exceptions R300). -/
theorem causeValid_recordCause {c : Word} (h : causeValid c) (e : Exception) (bd : Bool) (ce : BitVec 2) :
    causeValid (recordCause c e.code bd ce) := by
  refine ⟨(and_mask_eq_zero_iff _ _).2 fun i hi hm => ?_, ?_⟩
  · have hr : ∀ i < 32, (0x4FFFF883 : Word).getLsbD i = true → ¬ (28 ≤ i ∧ i < 30) ∧ i ≠ 31 ∧ ¬ (2 ≤ i ∧ i < 7) := by
      decide
    obtain ⟨notCe, notBd, notCode⟩ := hr i hi hm
    rw [getLsbD_recordCause, if_neg notCe, if_neg notBd, if_neg notCode]
    exact (and_mask_eq_zero_iff _ _).1 h.1 i hi hm
  · have recorded : (recordCause c e.code bd ce).extractLsb' 2 5 = e.code := by
      apply BitVec.eq_of_getLsbD_eq
      intro i hi
      rw [BitVec.getLsbD_extractLsb', getLsbD_recordCause, if_neg (by omega), if_neg (by omega), if_pos (by omega)]
      simp [hi]
    rw [recorded]
    exact legalCode_code e

theorem causeValid_enterException {s : State} (h : causeValid s.cause) (e : Exception) (victim follower : Word)
    (ce : BitVec 2) : causeValid (s.enterException e victim follower ce).cause :=
  causeValid_recordCause h e _ ce

/-- The CAUSE that a taken exception leaves is one that entry records. -/
theorem cause_of_tookException {s t : State} {e : Exception} {ce : Nat} {bad : Word} (hce : ce < 4)
    (h : tookException s e.code.toNat ce bad t) : ∃ bd, t.cause = recordCause s.cause e.code bd (BitVec.ofNat 2 ce) := by
  obtain ⟨-, -, hcause, -⟩ := h
  have hcode : BitVec.ofNat 32 (4 * e.code.toNat) = e.code.setWidth 32 <<< 2 := by cases e <;> rfl
  have hunit : BitVec.ofNat 32 (0x10000000 * ce) = (BitVec.ofNat 2 ce).setWidth 32 <<< 28 := by
    interval_cases ce <;> rfl
  refine ⟨!decide (s.pc = s.currentPc + 4), ?_⟩
  rw [hcause, recordCause_eq, hcode, hunit]
  by_cases hpc : s.pc = s.currentPc + 4 <;> simp [hpc]

/-- MTC0 reaches bits 9:8 of CAUSE at most (47_system_cop0 R273). -/
theorem causeValid_cop0Write {s : State} (h : causeValid s.cause) (n : Nat) (v : Word) :
    causeValid (s.cop0Write n v).cause := by
  unfold State.cop0Write
  split
  · exact h
  · exact causeValid_setField h 8 _ (by omega) (by omega)
  · exact h

/-- An instruction leaves CAUSE, enters an exception, or is MTC0. -/
theorem causeValid_exec {i : Instr} {s t : State} (hc : causeValid s.cause) (h : exec i s = .next t) :
    causeValid t.cause := by
  rcases exec_cases h with ⟨_, _, _, _, _, ⟨-, frame, -⟩, -⟩ | ⟨e, ce, bad, took, hce, -⟩ | ⟨rt, a, n, f, rfl, -⟩ |
    ⟨⟨a, n, v, stored⟩, -⟩ | ⟨rt, n, -, frame⟩ | ⟨-, rfl | ⟨rt, n, rfl⟩⟩
  · rw [frame]; exact hc
  · obtain ⟨bd, hbd⟩ := cause_of_tookException hce took
    rw [hbd]
    exact causeValid_recordCause hc e bd _
  · rw [(loadFrom_spec s rt a n f).2]; exact hc
  · rw [cause_of_sameCpu (sameCpu_of_devicesOnly (devicesOnly_memWrite stored)), State.land_cause]; exact hc
  · rw [frame]; exact hc
  · cases h
    show causeValid s.land.cause
    rw [State.land_cause]; exact hc
  · cases h
    exact causeValid_cop0Write (by rw [State.land_cause]; exact hc) n _

theorem causeValid_execute {s t : State} {w : Word} (hc : causeValid s.cause) (h : s.execute w = .next t) :
    causeValid t.cause := by
  rcases execute_cases h with ⟨i, -, hi⟩ | ⟨-, rfl⟩
  · exact causeValid_exec hc hi
  · exact causeValid_enterException (by rw [State.land_cause]; exact hc) _ _ _ _

/-- The poll writes bit 10 only (40_cpu_step R161). -/
theorem causeValid_poll {s : State} (h : causeValid s.cause) : causeValid s.poll.cause :=
  causeValid_setField h 10 _ (by omega) (by omega)

theorem causeValid_cpuStep {s t : State} (hc : causeValid s.cause) (h : s.cpuStep = .next t) : causeValid t.cause := by
  have polled := causeValid_poll hc
  rcases cpuStep_cases h with ⟨-, rfl⟩ | ⟨-, -, rfl⟩ | ⟨-, -, u, hu, rfl⟩
  · exact causeValid_enterException polled _ _ _ _
  · exact causeValid_recordCause polled .addressErrorLoad _ _
  · have fetched : s.poll.latch.fetch.2.cause = s.poll.latch.cause :=
      cause_of_sameCpu (sameCpu_of_devicesOnly (devicesOnly_of_readOnly (readOnly_memRead s.poll.latch _ _)))
    show causeValid u.cause
    refine causeValid_execute ?_ hu
    rw [State.advance_cause, fetched]
    exact polled

/-- Settles O56: the CPU step keeps register 0 and CAUSE, and the step boundary writes neither. -/
theorem stepKeepsTheCpuInvariant : Obligations.StepKeepsTheCpuInvariant := by
  unfold Obligations.StepKeepsTheCpuInvariant
  intro s t hz hr hc ht
  obtain ⟨u, hu, hf⟩ := andThen_eq_next ht
  cases hf
  have boundary := sameCpu_stepBoundary u
  refine ⟨?_, (causeValid_iff _).1 ?_⟩
  · unfold zeroRegister
    rw [regs_of_sameCpu boundary]
    exact zeroRegister_cpuStep hz hu
  · rw [cause_of_sameCpu boundary]
    exact causeValid_cpuStep ⟨hr, hc⟩ hu

end Machine
end Sys2Proof
end

section
/-! The interconnect: translation, main RAM, ranges with a fixed answer, dropped and misaligned accesses (20_memory). -/

namespace Sys2Proof
namespace Machine

open Safety

/-! ## Translation -/

/-- Settles O31: a translated address below 0x80000000 or from 0xC0000000 on is its own translation. -/
theorem translationMasksByRegion : Obligations.TranslationMasksByRegion := by
  unfold Obligations.TranslationMasksByRegion
  refine fun a => ⟨toNat_translate a, BitVec.eq_of_toNat_eq ?_⟩
  rw [toNat_translate (Machine.translate a), toNat_translate a]
  split_ifs <;> omega

/-! ## Accesses that change nothing -/

/-- An access to an address that no device has reads 0 (20_memory R95). -/
theorem memRead_unmapped (s : State) {a : Word} (h : deviceAt (Machine.translate a) = none) (n : Width) :
    s.memRead a n = (0, s) := by
  unfold State.memRead; rw [h]

/-- A store to an address that no device has is dropped, the cache isolated or not (20_memory R95). -/
theorem memWrite_unmapped (s : State) {a : Word} (h : deviceAt (Machine.translate a) = none) (n : Width) (v : Word) :
    s.memWrite a n v = .next s := by
  unfold State.memWrite; rw [h]; split <;> rfl

/-- A store that its device ignores is dropped, the cache isolated or not. -/
theorem memWrite_ignored (s : State) {a v : Word} {n : Width} {d : Device} {off : Nat}
    (h : deviceAt (Machine.translate a) = some (d, off)) (hw : s.deviceWrite d off n v = .next s) :
    s.memWrite a n v = .next s := by
  cases isolated : s.sr.getLsbD 16 with
  | true => exact memWrite_isolated s isolated a n v
  | false => rw [memWrite_device s isolated h, hw]

/-- The BIOS ROM drops every store (20_memory R96). -/
theorem memWrite_bios (s : State) {a : Word} (lo : 0x1FC00000 ≤ (Machine.translate a).toNat)
    (hi : (Machine.translate a).toNat ≤ 0x1FC7FFFF) (n : Width) (v : Word) : s.memWrite a n v = .next s :=
  memWrite_ignored s (deviceAt_of_row (d := .bios) (by decide) lo hi) rfl

/-- A store at `a` is dropped whatever its width: the cache is isolated, the address is in the BIOS ROM, or no device has it
(20_memory R95, R96, R113). -/
def dropsStores (s : State) (a : Word) : Prop :=
  s.sr.getLsbD 16 = true ∨
    (0x1FC00000 ≤ (Machine.translate a).toNat ∧ (Machine.translate a).toNat ≤ 0x1FC7FFFF) ∨
    deviceAt (Machine.translate a) = none

/-- Such a store completes and changes nothing. -/
theorem memWrite_dropped (s : State) {a : Word} (h : dropsStores s a) (n : Width) (v : Word) :
    s.memWrite a n v = .next s := by
  rcases h with isolated | ⟨lo, hi⟩ | unmapped
  · exact memWrite_isolated s isolated a n v
  · exact memWrite_bios s lo hi n v
  · exact memWrite_unmapped s unmapped n v

/-! ## Ranges with a fixed answer -/

/-- All ones, cut to the width of the access (20_memory R84). -/
theorem cut_allOnes (n : Width) : n.cut 0xFFFFFFFF = BitVec.ofNat 32 (2 ^ (8 * n.bytes) - 1) := by
  cases n <;> decide

/-- Three gaps of the device map (20_memory R82, R95). -/
theorem deviceAt_gap {p : Word} (h : 0x00200000 ≤ p.toNat ∧ p.toNat ≤ 0x1EFFFFFF ∨
    0x1FC80000 ≤ p.toNat ∧ p.toNat ≤ 0xFFFE012F ∨ 0xFFFE0134 ≤ p.toNat) : deviceAt p = none := by
  refine deviceAt_none ?_
  simp only [deviceMap, List.forall_mem_cons, List.not_mem_nil, false_implies, implies_true, and_true]
  omega

/-- What a CD-ROM register answers is a matter of the controller alone. -/
theorem cdRead_of_cd_eq {s t : State} (h : t.cd = s.cd) (off : Nat) : (t.cdRead off).1 = (s.cdRead off).1 := by
  unfold State.cdRead
  split
  case h_2 => unfold State.cdPopResponse; rw [h]; split <;> rfl
  case h_3 => unfold State.cdPopData; rw [h]; split <;> rfl
  all_goals simp only [h]

/-- The next pixel of a read, and the read record after it, are a matter of the GPU and VRAM alone. -/
theorem nextPixel_of_gpu_eq {s t : State} (gpu : t.gpu = s.gpu) (vram : t.vram = s.vram) :
    t.nextPixel.1 = s.nextPixel.1 ∧ t.nextPixel.2.gpu = s.nextPixel.2.gpu ∧ t.nextPixel.2.vram = s.nextPixel.2.vram := by
  have pixel (x y : Nat) : t.pixel x y = s.pixel x y := by simp only [State.pixel, State.vramByte, vram]
  unfold State.nextPixel
  dsimp only
  rw [gpu]
  split
  · exact ⟨pixel _ _, rfl, vram⟩
  · exact ⟨rfl, gpu, vram⟩

/-- What GPUREAD answers is a matter of the GPU, VRAM and the count of free values alone. -/
theorem gpuRead_of_gpu_eq {s t : State} (gpu : t.gpu = s.gpu) (vram : t.vram = s.vram)
    (free : t.freeCount = s.freeCount) : t.gpuRead.1 = s.gpuRead.1 := by
  obtain ⟨low, gpu', vram'⟩ := nextPixel_of_gpu_eq gpu vram
  obtain ⟨high, -, -⟩ := nextPixel_of_gpu_eq gpu' vram'
  unfold State.gpuRead
  rw [gpu]
  split
  case h_1 => simp only [low, high]
  all_goals simp only [State.drawWord, free]

/-- No device looks at SR when it is read. -/
theorem deviceRead_withSr (s : State) (sr : Word) (d : Device) (off : Nat) (n : Width) :
    ({ s with sr := sr }.deviceRead d off n).1 = (s.deviceRead d off n).1 := by
  unfold State.deviceRead
  cases d with
  | cdrom =>
    dsimp only
    split
    · simp only [cdRead_of_cd_eq (s := s) (t := { s with sr := sr }) rfl]
    · rfl
  | gp0 =>
    dsimp only
    split
    · exact gpuRead_of_gpu_eq rfl rfl rfl
    · rfl
  | _ => rfl

/-- What a read answers does not depend on SR, bit 16 included (20_memory R113). -/
theorem memRead_withSr (s : State) (sr a : Word) (n : Width) :
    ({ s with sr := sr }.memRead a n).1 = (s.memRead a n).1 := by
  cases h : deviceAt (Machine.translate a) with
  | none => rw [memRead_unmapped _ h, memRead_unmapped s h]
  | some row => rw [memRead_device _ h, memRead_device s h, deviceRead_withSr]

/-- Settles O33: the row of the device map, or the absence of one, decides each access. -/
theorem constantRangesAndIsolationDropStores : Obligations.ConstantRangesAndIsolationDropStores := by
  unfold Obligations.ConstantRangesAndIsolationDropStores
  intro s a v n p
  refine ⟨fun ⟨lo, hi⟩ => ?_, fun ⟨lo, hi⟩ => ?_, fun ⟨lo, hi⟩ => ?_, fun gap => ?_,
    fun isolated => memWrite_isolated s isolated a n v, fun sr => memRead_withSr s sr a n⟩
  · have row := deviceAt_of_row (d := .expansion1) (by decide) lo hi
    refine ⟨?_, memWrite_ignored s row rfl⟩
    rw [memRead_device s row, ← cut_allOnes]
    rfl
  · have row := deviceAt_of_row (d := .spu) (by decide) lo hi
    exact ⟨memRead_device s row n, memWrite_ignored s row rfl⟩
  · have read := memRead_device s (deviceAt_of_row (d := .bios) (by decide) lo hi)
    refine ⟨by rw [read]; rfl, memWrite_bios s lo hi n v, ?_⟩
    rw [read]
    exact readBytes_one s.biosByte _
  · have unmapped := deviceAt_gap gap
    exact ⟨memRead_unmapped s unmapped n, memWrite_unmapped s unmapped n v⟩

/-! ## Main RAM -/

/-- The three virtual addresses of a byte of main RAM, one in each region (20_memory R72, R82). -/
theorem ramAddress_iff (a : Word) (k : Nat) :
    ramAddress a k ↔ k < 0x200000 ∧ (a.toNat = k ∨ a.toNat = 0x80000000 + k ∨ a.toNat = 0xA0000000 + k) := by
  rw [ramAddress, toNat_translate, and_comm]
  refine and_congr_right fun inside => ?_
  split_ifs <;> omega

/-- The bytes after a word-aligned one stand at the next addresses: no region ends inside a word (20_memory R72, R82). -/
theorem ramAddress_add {a : Word} {k : Nat} (h : ramAddress a k) (aligned : k % 4 = 0) {i : Nat} (hi : i < 4) :
    ramAddress (a + BitVec.ofNat 32 i) (k + i) := by
  rw [ramAddress_iff] at h ⊢
  obtain ⟨inside, place⟩ := h
  have sum : (a + BitVec.ofNat 32 i).toNat = a.toNat + i := by
    rw [BitVec.toNat_add, BitVec.toNat_ofNat]; omega
  rw [sum]
  omega

/-- An aligned word of main RAM lies inside it. -/
theorem ramAddress_word_inside {a : Word} {k : Nat} (h : ramAddress a k) (aligned : k % 4 = 0) :
    k + 4 ≤ Config.ramSize := by
  obtain ⟨-, inside⟩ := h
  unfold Config.ramSize
  omega

/-- The stored word, byte by byte (20_memory R75). -/
theorem ramByte_ramWrite_word {s : State} (h : storesCanonical s) {k : Nat} (hk : k + 4 ≤ Config.ramSize) (v : Word)
    {i : Nat} (hi : i < 4) : (s.ramWrite k 4 v).ramByte (k + i) = v.extractLsb' (8 * i) 8 := by
  rw [State.ramByte_ramWrite s h.1 k 4 v hk, if_pos (by omega), Nat.add_sub_cancel_left]

/-- Bytes `i` to `i + n - 1` of a word, read back as a little-endian number, are the word's bits from `8 i` on (20_memory R75). -/
theorem readBytes_of_wordBytes {f : Nat → Byte} {k : Nat} {v : Word}
    (bytes : ∀ i < 4, f (k + i) = v.extractLsb' (8 * i) 8) (n : Nat) {i : Nat} (h : i + n ≤ 4) :
    readBytes f (k + i) n = BitVec.ofNat 32 (v.toNat / 2 ^ (8 * i) % 2 ^ (8 * n)) := by
  induction n generalizing i with
  | zero => rw [readBytes, Nat.mul_zero, Nat.pow_zero, Nat.mod_one]; rfl
  | succ n ih =>
    rw [readBytes, Nat.add_assoc, ih (i := i + 1) (by omega), bytes i (by omega)]
    apply BitVec.eq_of_getLsbD_eq
    intro j hj
    simp only [BitVec.getLsbD_or, BitVec.getLsbD_setWidth, BitVec.getLsbD_shiftLeft, BitVec.getLsbD_extractLsb',
      BitVec.getLsbD_ofNat, Nat.testBit_mod_two_pow, Nat.testBit_div_two_pow, BitVec.testBit_toNat, hj]
    by_cases low : j < 8
    · have : j < 8 * (n + 1) := by omega
      simp [low, this, Nat.add_comm]
    · have place : j - 8 + 8 * (i + 1) = j + 8 * i := by omega
      have width : (j - 8 < 8 * n) = (j < 8 * (n + 1)) := by rw [eq_iff_iff]; omega
      have inside : j - 8 < 32 := by omega
      simp [low, place, width, inside]

/-- Reads of every width inside an aligned word of main RAM after the word was stored (20_memory R75, R83). -/
theorem memRead_ramWrite_word {s : State} (h : storesCanonical s) {a : Word} {k : Nat} (ram : ramAddress a k)
    (aligned : k % 4 = 0) (v : Word) {i : Nat} {n : Width} (inside : i + n.bytes ≤ 4) :
    ((s.ramWrite k 4 v).memRead (a + BitVec.ofNat 32 i) n).1 =
      BitVec.ofNat 32 (v.toNat / 2 ^ (8 * i) % 2 ^ (8 * n.bytes)) := by
  have positive : 0 < n.bytes := by cases n <;> decide
  have size := ramAddress_word_inside ram aligned
  rw [memRead_ram _ (ramAddress_add ram aligned (by omega))]
  exact readBytes_of_wordBytes (fun i hi => ramByte_ramWrite_word h size v hi) _ inside

/-- Settles O32: a read is `readBytes` of the bytes in place, and the word store replaces just its four bytes. -/
theorem ramReadsWhatWasWritten : Obligations.RamReadsWhatWasWritten := by
  unfold Obligations.RamReadsWhatWasWritten
  refine ⟨fun s a k ram => ⟨?_, fun _ => ?_, fun _ => ?_⟩, fun s a v k canonical reached ram aligned => ?_⟩
  · rw [memRead_ram s ram, ← readBytes_one]; rfl
  · rw [memRead_ram s ram, ← readBytes_two]; rfl
  · rw [memRead_ram s ram, ← readBytes_four]; rfl
  · have size := ramAddress_word_inside ram aligned
    have part {i : Nat} {n : Width} := memRead_ramWrite_word canonical ram aligned v (i := i) (n := n)
    have atStart {n : Width} (hn : 0 + n.bytes ≤ 4) := part hn
    simp only [BitVec.add_zero] at atStart
    have bound := v.isLt
    refine ⟨s.ramWrite k 4 v, memWrite_ram s ram reached .word v, ?_, ?_, ?_, ?_, ?_, fun j hj => ?_⟩
    · refine (atStart (n := .word) (by decide)).trans (BitVec.eq_of_toNat_eq ?_)
      rw [BitVec.toNat_ofNat]
      simp only [Width.bytes]
      omega
    · exact (atStart (n := .half) (by decide)).trans (congrArg _ (by simp only [Width.bytes]; omega))
    · exact (part (i := 2) (n := .half) (by decide)).trans (congrArg _ (by simp only [Width.bytes]; omega))
    · exact (atStart (n := .byte) (by decide)).trans (congrArg _ (by simp only [Width.bytes]; omega))
    · exact (part (i := 3) (n := .byte) (by decide)).trans (congrArg _ (by simp only [Width.bytes]; omega))
    · rw [State.ramByte_ramWrite s canonical.1 k 4 v size, if_neg hj]

/-! ## Loads and stores by alignment -/

/-- LW answers by the alignment of its address (42_load_store R191, R192). -/
theorem exec_lw (s : State) (rt base : Reg) (offset : Half) :
    exec (.lw rt offset base) s =
      if (s.effectiveAddress base offset).toNat % 4 = 0 then
        .next (s.loadFrom rt (s.effectiveAddress base offset) .word asWord)
      else .next (s.raiseAddress .addressErrorLoad (s.effectiveAddress base offset)) := by
  change execLw rt offset base s = _
  unfold execLw
  simp only [wordAligned_eq, decide_eq_true_eq]

/-- LH answers by the alignment of its address (42_load_store R191, R193). -/
theorem exec_lh (s : State) (rt base : Reg) (offset : Half) :
    exec (.lh rt offset base) s =
      if (s.effectiveAddress base offset).toNat % 2 = 0 then
        .next (s.loadFrom rt (s.effectiveAddress base offset) .half asSignedHalf)
      else .next (s.raiseAddress .addressErrorLoad (s.effectiveAddress base offset)) := by
  change execLh rt offset base s = _
  unfold execLh
  simp only [halfAligned_eq, decide_eq_true_eq]

/-- LHU answers by the alignment of its address (42_load_store R191, R194). -/
theorem exec_lhu (s : State) (rt base : Reg) (offset : Half) :
    exec (.lhu rt offset base) s =
      if (s.effectiveAddress base offset).toNat % 2 = 0 then
        .next (s.loadFrom rt (s.effectiveAddress base offset) .half asUnsignedHalf)
      else .next (s.raiseAddress .addressErrorLoad (s.effectiveAddress base offset)) := by
  change execLhu rt offset base s = _
  unfold execLhu
  simp only [halfAligned_eq, decide_eq_true_eq]

/-- SW answers by the alignment of its address (42_load_store R197, R200). -/
theorem exec_sw (s : State) (rt base : Reg) (offset : Half) :
    exec (.sw rt offset base) s =
      if (s.effectiveAddress base offset).toNat % 4 = 0 then
        s.storeTo (s.effectiveAddress base offset) .word (s.x rt)
      else .next (s.raiseAddress .addressErrorStore (s.effectiveAddress base offset)) := by
  change execSw rt offset base s = _
  unfold execSw
  simp only [wordAligned_eq, decide_eq_true_eq]

/-- SH answers by the alignment of its address (42_load_store R198, R200). -/
theorem exec_sh (s : State) (rt base : Reg) (offset : Half) :
    exec (.sh rt offset base) s =
      if (s.effectiveAddress base offset).toNat % 2 = 0 then
        s.storeTo (s.effectiveAddress base offset) .half (s.x rt)
      else .next (s.raiseAddress .addressErrorStore (s.effectiveAddress base offset)) := by
  change execSh rt offset base s = _
  unfold execSh
  simp only [halfAligned_eq, decide_eq_true_eq]

/-- SB stores at every address (42_load_store R199). -/
theorem exec_sb (s : State) (rt base : Reg) (offset : Half) :
    exec (.sb rt offset base) s = s.storeTo (s.effectiveAddress base offset) .byte (s.x rt) := rfl

/-- Settles O14: each form answers the address error of its virtual address, whose frame is `tookException_raiseAddress`. -/
theorem misalignedAccessesTrap : Obligations.MisalignedAccessesTrap := by
  unfold Obligations.MisalignedAccessesTrap
  intro s rt base offset
  rw [← effectiveAddress_eq]
  have load := tookException_raiseAddress s .addressErrorLoad (s.effectiveAddress base offset)
  have store := tookException_raiseAddress s .addressErrorStore (s.effectiveAddress base offset)
  refine ⟨fun misaligned => ⟨⟨_, ?_, load⟩, ⟨_, ?_, store⟩⟩,
    fun misaligned => ⟨⟨_, ?_, load⟩, ⟨_, ?_, load⟩, ⟨_, ?_, store⟩⟩⟩
  · rw [exec_lw, if_neg misaligned]
  · rw [exec_sw, if_neg misaligned]
  · rw [exec_lh, if_neg misaligned]
  · rw [exec_lhu, if_neg misaligned]
  · rw [exec_sh, if_neg misaligned]

/-! ## Stores that complete -/

/-- Every device answers a store of 8 or 16 bits: only a word store can fault or be refused (20_memory R97). -/
theorem deviceWrite_narrow (s : State) (d : Device) (off : Nat) {n : Width} (narrow : n ≠ .word) (v : Word) :
    ∃ t, s.deviceWrite d off n v = .next t := by
  cases d with
  | dma | gp0 | gp1 => exact ⟨s, if_neg narrow⟩
  | _ => exact ⟨_, rfl⟩

/-- A store of 8 or 16 bits completes at every address (42_load_store R201). -/
theorem memWrite_narrow (s : State) (a : Word) {n : Width} (narrow : n ≠ .word) (v : Word) :
    ∃ t, s.memWrite a n v = .next t := by
  cases isolated : s.sr.getLsbD 16 with
  | true => exact ⟨s, memWrite_isolated s isolated a n v⟩
  | false =>
    cases h : deviceAt (Machine.translate a) with
    | none => exact ⟨s, memWrite_unmapped s h n v⟩
    | some row => rw [memWrite_device s isolated h]; exact deviceWrite_narrow s row.1 row.2 narrow v

/-- A physical address of a register of the DMA controller or of one of the two GPU ports (20_memory R82). -/
def onDmaOrGpu (p : Nat) : Prop := 0x1F801080 ≤ p ∧ p ≤ 0x1F8010FF ∨ 0x1F801810 ≤ p ∧ p ≤ 0x1F801817

/-- The registers of the DMA controller and the two GPU ports ignore a store of 8 or 16 bits (20_memory R97). -/
theorem memWrite_narrow_ignored (s : State) {a : Word} (h : onDmaOrGpu (Machine.translate a).toNat) {n : Width}
    (narrow : n ≠ .word) (v : Word) : s.memWrite a n v = .next s := by
  rcases h with ⟨lo, hi⟩ | ⟨lo, hi⟩
  · exact memWrite_ignored s (deviceAt_of_row (d := .dma) (by decide) lo hi) (if_neg narrow)
  · rcases Nat.lt_or_ge (Machine.translate a).toNat 0x1F801814 with below | above
    · exact memWrite_ignored s (deviceAt_of_row (d := .gp0) (hi := 0x1F801813) (by decide) lo (by omega)) (if_neg narrow)
    · exact memWrite_ignored s (deviceAt_of_row (d := .gp1) (by decide) above hi) (if_neg narrow)

/-- A store of 8 or 16 bits that passed its alignment check: the landing, then at most a device or a store changed. -/
theorem storeTo_narrow (s : State) (a : Word) {n : Width} (narrow : n ≠ .word) (v : Word) :
    ∃ t, s.storeTo a n v = .next t ∧ (∀ r, t.x r = landedReg s r) ∧ t.pending = { index := 0, value := 0 } ∧
      devicesOnly s.land t ∧ (onDmaOrGpu (Machine.translate a).toNat → t = s.land) := by
  obtain ⟨t, stored⟩ := memWrite_narrow s.land a narrow v
  have frame := devicesOnly_memWrite stored
  refine ⟨t, stored, fun r => ?_, by rw [frame, State.land_pending], frame, fun h => ?_⟩
  · rw [State.x_of_regs_eq (regs_of_sameCpu (sameCpu_of_devicesOnly frame)), State.x_land]
  · have dropped := memWrite_narrow_ignored s.land h narrow v
    rw [stored] at dropped
    exact Host.Outcome.next.inj dropped

/-- A dropped store lands the pending load and nothing else. -/
theorem storeTo_dropped (s : State) {a : Word} (h : dropsStores s a) (n : Width) (v : Word) :
    ∃ t, s.storeTo a n v = .next t ∧ drained s s.hi s.lo s.nextPc t :=
  ⟨s.land, memWrite_dropped s.land (by rwa [dropsStores, State.land_sr]) n v, drained_land s⟩

/-- Settles O13: an aligned store is `storeTo`, which lands the load and then drops the bytes or hands them to a device. -/
theorem droppedAndNarrowStoresComplete : Obligations.DroppedAndNarrowStoresComplete := by
  unfold Obligations.DroppedAndNarrowStoresComplete
  intro s rt base offset
  refine ⟨fun h => ⟨fun aligned => ?_, fun aligned => ?_, ?_⟩, ?_, fun aligned => ?_⟩
  · rw [exec_sw, if_pos aligned]; exact storeTo_dropped s h .word (s.x rt)
  · rw [exec_sh, if_pos aligned]; exact storeTo_dropped s h .half (s.x rt)
  · rw [exec_sb]; exact storeTo_dropped s h .byte (s.x rt)
  · dsimp only; rw [exec_sb]; exact storeTo_narrow s _ (by decide) (s.x rt)
  · dsimp only; rw [exec_sh, if_pos aligned]; exact storeTo_narrow s _ (by decide) (s.x rt)

end Machine
end Sys2Proof
end

section
/-! The encoding: what the decoder accepts, what it rejects, and that it reads back what the encoder writes (30_encoding). -/

namespace Sys2Proof

/-! ## The two opcodes with refused words -/

theorem decode_regimm {w : Word} (h : fieldOp w = 0x01#6) : decode w = decodeRegimm w := by
  simp only [decode, h]

theorem decode_cop0 {w : Word} (h : fieldOp w = 0x10#6) : decode w = decodeCop0 w := by
  simp only [decode, h]

/-! ## Words written out -/

/-- Settles O1 by evaluating the decoder on each of the twelve words. -/
theorem writtenOutWordsDecode : Obligations.WrittenOutWordsDecode := by
  unfold Obligations.WrittenOutWordsDecode
  exact ⟨rfl, rfl, rfl, rfl, rfl, rfl, rfl, rfl, rfl, rfl, rfl, rfl⟩

/-! ## The round trip -/

/-- Decoding an I-format word with `op` = 0x01 is decoding its `rt` (30_encoding R139). -/
theorem decode_iType_regimm (rs rt : BitVec 5) (imm : Half) :
    decode (iType 0x01#6 rs rt imm) = decodeRegimm (iType 0x01#6 rs rt imm) :=
  decode_regimm (fieldOp_iType _ _ _ _)

/-- Decoding a COP0 move is decoding its sub-opcode (30_encoding R139). -/
theorem decode_cop0Move (sub rt : BitVec 5) (n : Nat) :
    decode (cop0Move sub rt n) = decodeCop0 (cop0Move sub rt n) :=
  decode_cop0 (fields_cop0Move sub rt n).1

/-- Settles O2: by the format of the encoded word (30_encoding R132), whose fields are the instruction's operands. -/
theorem decodeOfEncode : Obligations.DecodeOfEncode := by
  unfold Obligations.DecodeOfEncode
  intro i fits
  cases i with
  | lui | ori | andi | addi | addiu | slti | sltiu | lw | lh | lhu | lb | lbu | sw | sh | sb | beq | bne | blez | bgtz =>
    simp only [encode, decode, fieldOp_iType, fieldRs_iType, fieldRt_iType, fieldImm16_iType,
      BitVec.ofNat_eq_ofNat]
  | bltz | bgez | bltzal | bgezal =>
    simp only [encode, decode_iType_regimm, decodeRegimm, fieldRs_iType, fieldRt_iType, fieldImm16_iType,
      BitVec.ofNat_eq_ofNat]
  | sll rd rt shamt | srl rd rt shamt | sra rd rt shamt =>
    have bound : shamt < 32 := of_decide_eq_true fits
    simp only [encode, decode_rType, decodeSpecial, fields_rType, toNat_ofNat_5 bound, BitVec.ofNat_eq_ofNat]
  | sllv | srlv | srav | add | addu | sub | subu | and | or | xor | nor | slt | sltu | mult | multu | div | divu | mfhi
  | mflo | mthi | mtlo | jr | jalr =>
    simp only [encode, decode_rType, decodeSpecial, fields_rType, BitVec.ofNat_eq_ofNat]
  | j | jal => simp only [encode, decode, fields_jType, BitVec.ofNat_eq_ofNat]
  | mfc0 rt n | mtc0 rt n =>
    have bound : n < 32 := of_decide_eq_true fits
    simp only [encode, decode_cop0Move, decodeCop0, fields_cop0Move, toNat_ofNat_5 bound, BitVec.ofNat_eq_ofNat]
  | syscall | brk | rfe | cop1 | cop3 | lwc0 | lwc1 | lwc3 | swc0 | swc1 | swc3 | xori | cop2 | lwl | lwr | swl | swr
  | lwc2 | swc2 => rfl

/-! ## The words the decoder accepts -/

/-- Any five-bit field read as a number passes the checks of `shamtFits` and `cop0NumberFits` (30_encoding R133). -/
theorem toNat_field_fits (field : BitVec 5) : decide (field.toNat < 32) = true := decide_eq_true field.isLt

theorem wellFormed_of_decodeSpecial {w : Word} {i : Instr} (h : decodeSpecial w = .ok i) : i.wellFormed = true := by
  unfold decodeSpecial at h
  split at h
  case h_1 | h_2 | h_3 => cases h; exact toNat_field_fits (fieldShamt w) -- SLL, SRL, SRA
  case h_29 => cases h -- no row
  all_goals cases h; rfl

theorem wellFormed_of_decodeRegimm {w : Word} {i : Instr} (h : decodeRegimm w = .ok i) : i.wellFormed = true := by
  unfold decodeRegimm at h
  split at h
  case h_5 => cases h -- no row
  all_goals cases h; rfl

theorem wellFormed_of_decodeCop0 {w : Word} {i : Instr} (h : decodeCop0 w = .ok i) : i.wellFormed = true := by
  unfold decodeCop0 at h
  split at h
  case h_1 | h_2 => cases h; exact toNat_field_fits (fieldRd w) -- MFC0, MTC0
  case h_3 => split at h <;> cases h; rfl -- RFE
  case h_4 => cases h -- no row

/-- A shift amount or a COP0 number that the decoder reads comes from a field of five bits; every other operand fits by its
type. -/
theorem wellFormed_of_decode {w : Word} {i : Instr} (h : decode w = .ok i) : i.wellFormed = true := by
  unfold decode at h
  split at h
  case h_1 => exact wellFormed_of_decodeSpecial h
  case h_2 => exact wellFormed_of_decodeRegimm h
  case h_17 => exact wellFormed_of_decodeCop0 h
  case h_41 => cases h -- no row
  all_goals cases h; rfl

/-- Settles O3: a decoded instruction is well formed, so its encoding decodes to it, as the word does. -/
theorem decodedWordsAreWellFormed : Obligations.DecodedWordsAreWellFormed := by
  unfold Obligations.DecodedWordsAreWellFormed
  intro w i decoded
  have fits := wellFormed_of_decode decoded
  exact ⟨fits, by rw [decoded]; exact decodeOfEncode i fits⟩

/-! ## The words the decoder rejects -/

theorem error_of_decodeSpecial {w : Word} {e : DecodeError} (h : decodeSpecial w = .error e) :
    e = .reservedInstruction := by
  unfold decodeSpecial at h
  split at h
  case h_29 => cases h; rfl -- no row
  all_goals cases h

theorem error_of_decodeRegimm {w : Word} {e : DecodeError} (h : decodeRegimm w = .error e) : e = .regimmSelector := by
  unfold decodeRegimm at h
  split at h
  case h_5 => cases h; rfl -- no row
  all_goals cases h

theorem error_of_decodeCop0 {w : Word} {e : DecodeError} (h : decodeCop0 w = .error e) : e = .cop0SubOpcode := by
  unfold decodeCop0 at h
  split at h
  case h_1 | h_2 => cases h -- MFC0, MTC0
  case h_3 => split at h <;> cases h; rfl -- RFE
  case h_4 => cases h; rfl -- no row

/-- Outside the two opcodes with refused words, every word of no row is a reserved instruction (30_encoding R140). -/
theorem error_of_decode {w : Word} {e : DecodeError} (h : decode w = .error e) (regimm : fieldOp w ≠ 0x01#6)
    (cop0 : fieldOp w ≠ 0x10#6) : e = .reservedInstruction := by
  unfold decode at h
  split at h
  case h_1 => exact error_of_decodeSpecial h
  case h_2 op => exact absurd op regimm
  case h_17 op => exact absurd op cop0
  case h_41 => cases h; rfl -- no row
  all_goals cases h

namespace Machine

theorem execute_of_decode_error {w : Word} {e : DecodeError} (h : decode w = .error e) (s : State) :
    s.execute w = s.executeOther e := by
  simp only [State.execute, h]

/-- Settles O28: `op` decides which error the decoder gives, and the error what executing the word does. -/
theorem unmatchedWordsTrapOrAreRefused : Obligations.UnmatchedWordsTrapOrAreRefused := by
  unfold Obligations.UnmatchedWordsTrapOrAreRefused
  intro s w e rejected
  rw [execute_of_decode_error rejected]
  refine ⟨fun ⟨regimm, cop0⟩ => ?_, fun op => ?_, fun op => ?_⟩
  · rw [error_of_decode rejected regimm cop0]
    exact ⟨_, rfl, tookException_raise s .reservedInstruction⟩
  · rw [decode_regimm op] at rejected
    rw [error_of_decodeRegimm rejected]
    rfl
  · rw [decode_cop0 op] at rejected
    rw [error_of_decodeCop0 rejected]
    rfl

/-! ## The coprocessor opcodes and the refused ones -/

/-- Settles O21: each of the eight is `raiseUnusable` with its coprocessor number. -/
theorem coprocessorWordsAreUnusable : Obligations.CoprocessorWordsAreUnusable := by
  unfold Obligations.CoprocessorWordsAreUnusable
  intro s
  have unusable := tookException_raiseUnusable s
  exact ⟨⟨_, rfl, unusable 1⟩, ⟨_, rfl, unusable 3⟩, ⟨_, rfl, unusable 0⟩, ⟨_, rfl, unusable 1⟩, ⟨_, rfl, unusable 3⟩,
    ⟨_, rfl, unusable 0⟩, ⟨_, rfl, unusable 1⟩, ⟨_, rfl, unusable 3⟩⟩

/-- Settles O22: the arm of each of the eight is its refusal by name, whatever the state. -/
theorem omittedInstructionsAreRefused : Obligations.OmittedInstructionsAreRefused := by
  unfold Obligations.OmittedInstructionsAreRefused
  intro s
  exact ⟨rfl, rfl, rfl, rfl, rfl, rfl, rfl, rfl⟩

end Machine
end Sys2Proof
end

section
/-! The CPU step: what an instruction does to the exception state and to HI and LO, the ways a step goes, the load delay
(40_cpu_step, 60_exceptions). -/

namespace Sys2Proof
namespace Machine

open Safety

/-! ## What every instruction keeps -/

/-- EPC, BadVAddr, `current_pc` and `pc` are as they were (40_cpu_step R170; 10_state R43, R44). -/
def keepsContext (s t : State) : Prop :=
  t.epc = s.epc ∧ t.badVaddr = s.badVaddr ∧ t.currentPc = s.currentPc ∧ t.pc = s.pc

/-- SR and CAUSE are as they were (10_state R41, R42). -/
def keepsStatus (s t : State) : Prop := t.sr = s.sr ∧ t.cause = s.cause

/-- HI and LO are as they were (10_state R25). -/
def keepsHiLo (s t : State) : Prop := t.hi = s.hi ∧ t.lo = s.lo

/-- A store that completes changes the devices of the drained state, and none of these registers. -/
theorem keeps_storeTo {s t : State} {a v : Word} {n : Width} (h : s.storeTo a n v = .next t) :
    keepsContext s t ∧ keepsStatus s t ∧ keepsHiLo s t := by
  have frame := devicesOnly_memWrite h
  unfold devicesOnly at frame
  rw [frame]
  exact ⟨⟨s.land_epc, s.land_badVaddr, s.land_currentPc, s.land_pc⟩, ⟨s.land_sr, s.land_cause⟩, ⟨s.land_hi, s.land_lo⟩⟩

/-- An instruction takes one exception, or keeps the context; SR and CAUSE are then written by RFE and MTC0 alone. -/
theorem exec_takes_exception_or_keeps {i : Instr} {s t : State} (h : exec i s = .next t) :
    (∃ code ce bad, tookException s code ce bad t) ∨
      (keepsContext s t ∧ (i ≠ .rfe → (∀ rt n, i ≠ .mtc0 rt n) → keepsStatus s t)) := by
  rcases exec_cases h with ⟨_, _, _, _, _, ⟨-, frame, -⟩, -⟩ | ⟨e, ce, bad, took, -⟩ | ⟨rt, a, n, f, rfl, -⟩ |
    ⟨⟨a, n, v, stored⟩, -⟩ | ⟨rt, n, -, frame⟩ | ⟨⟨sr, cause, -, frame, -⟩, status⟩
  · right; rw [frame]; exact ⟨⟨rfl, rfl, rfl, rfl⟩, fun _ _ => ⟨rfl, rfl⟩⟩
  · exact .inl ⟨_, ce, bad, took⟩
  · right; rw [(loadFrom_spec s rt a n f).2]; exact ⟨⟨rfl, rfl, rfl, rfl⟩, fun _ _ => ⟨rfl, rfl⟩⟩
  · obtain ⟨context, status, -⟩ := keeps_storeTo stored
    exact .inr ⟨context, fun _ _ => status⟩
  · right; rw [frame]; exact ⟨⟨rfl, rfl, rfl, rfl⟩, fun _ _ => ⟨rfl, rfl⟩⟩
  · refine .inr ⟨by rw [frame]; exact ⟨rfl, rfl, rfl, rfl⟩, fun notRfe notMtc0 => ?_⟩
    rcases status with isRfe | ⟨rt, n, isMtc0⟩
    · exact absurd isRfe notRfe
    · exact absurd isMtc0 (notMtc0 rt n)

theorem exec_keepsHiLo {i : Instr} {s t : State} (h : exec i s = .next t) (plain : writesHiLo i = false) :
    keepsHiLo s t := by
  rcases exec_cases h with ⟨_, _, _, _, _, ⟨-, frame, -⟩, same⟩ | ⟨e, ce, bad, ⟨-, -, -, -, -, -, frame, -⟩, -⟩ |
    ⟨rt, a, n, f, rfl, -⟩ | ⟨⟨a, n, v, stored⟩, -⟩ | ⟨rt, n, -, frame⟩ | ⟨⟨sr, cause, -, frame, -⟩, -⟩
  · rw [frame]; exact same plain
  · rw [frame]; exact ⟨rfl, rfl⟩
  · rw [(loadFrom_spec s rt a n f).2]; exact ⟨rfl, rfl⟩
  · obtain ⟨-, -, hiLo⟩ := keeps_storeTo stored
    exact hiLo
  · rw [frame]; exact ⟨rfl, rfl⟩
  · rw [frame]; exact ⟨rfl, rfl⟩

/-- The six instructions that write HI or LO, named one by one. -/
theorem writesHiLo_eq_false {i : Instr}
    (h : ∀ a b, i ≠ .mult a b ∧ i ≠ .multu a b ∧ i ≠ .div a b ∧ i ≠ .divu a b ∧ i ≠ .mthi a ∧ i ≠ .mtlo a) :
    writesHiLo i = false := by
  cases i with
  | mult a b | multu a b | div a b | divu a b => exact absurd (h a b) (by simp)
  | mthi a | mtlo a => exact absurd (h a 0) (by simp)
  | _ => rfl

/-- Settles O24, from the six ways an instruction ends (`exec_cases`). -/
theorem instructionsCompleteOrTakeOneException : Obligations.InstructionsCompleteOrTakeOneException := by
  unfold Obligations.InstructionsCompleteOrTakeOneException
  intro i s t h
  refine ⟨?_, fun others => exec_keepsHiLo h (writesHiLo_eq_false others)⟩
  rcases exec_takes_exception_or_keeps h with took | ⟨⟨epc, bad, current, pc⟩, status⟩
  · exact .inl took
  · exact .inr ⟨epc, bad, current, pc, status⟩

/-! ## The three ways a step goes -/

theorem step_of_cpuStep {s t : State} (h : s.cpuStep = .next t) : step s = .next t.stepBoundary := by
  rw [step, h, andThen_next]

/-- An interrupt that is due is taken before the fetch (40_cpu_step R161). -/
theorem cpuStep_of_interruptDue {s : State} (due : s.poll.interruptDue = true) :
    s.cpuStep = .next s.poll.takeInterrupt := if_pos due

theorem cpuStep_of_not_interruptDue {s : State} (idle : s.poll.interruptDue = false) :
    s.cpuStep = s.poll.runInstruction := if_neg (by rw [idle]; decide)

/-- A `pc` that is no multiple of 4 (40_cpu_step R162; 20_memory R78). -/
theorem cpuStep_of_misaligned {s : State} (idle : s.poll.interruptDue = false) (misaligned : s.pc.toNat % 4 ≠ 0) :
    s.cpuStep = .next s.poll.latch.takeFetchError := by
  have failed : ¬ s.poll.latch.fetchAligned = true := by
    rwa [State.fetchAligned, wordAligned_eq, decide_eq_true_eq]
  rw [cpuStep_of_not_interruptDue idle]
  exact if_neg failed

/-- A `pc` that is a multiple of 4: fetch, advance, execute, force (40_cpu_step R163, R168, R169). -/
theorem cpuStep_of_aligned {s : State} (idle : s.poll.interruptDue = false) (aligned : s.pc.toNat % 4 = 0) :
    s.cpuStep = s.poll.latch.fetch.2.advance.executeAndForce s.poll.latch.fetch.1 := by
  have passed : s.poll.latch.fetchAligned = true := by
    rwa [State.fetchAligned, wordAligned_eq, decide_eq_true_eq]
  rw [cpuStep_of_not_interruptDue idle]
  exact if_pos passed

theorem execute_of_decode {w : Word} {i : Instr} (h : decode w = .ok i) (s : State) : s.execute w = exec i s := by
  simp only [State.execute, h]

/-- The fetch reads memory, so `next_pc` is still the one before the step when it moves into `pc` (40_cpu_step R163). -/
theorem advance_fetch (s : State) : s.fetch.2.advance = { s.fetch.2 with pc := s.nextPc, nextPc := s.nextPc + 4 } := by
  have kept : s.fetch.2.nextPc = s.nextPc := by
    have frame := readOnly_memRead s s.currentPc .word
    unfold readOnly at frame
    rw [State.fetch, frame]
  rw [State.advance, kept]

/-- Settles O25: the aligned way of the step, with the decoded word's `exec` as its `execute`. -/
theorem stepRunsTheDecodedInstruction : Obligations.StepRunsTheDecodedInstruction := by
  unfold Obligations.StepRunsTheDecodedInstruction
  intro s i f idle aligned decoded
  have executed : s.cpuStep =
      andThen (exec i { f.2 with pc := s.nextPc, nextPc := s.nextPc + 4 }) fun t => .next t.forceZero := by
    have fetched : decode s.poll.latch.fetch.1 = .ok i := decoded
    rw [cpuStep_of_aligned idle aligned, advance_fetch, State.executeAndForce, execute_of_decode fetched]
    rfl
  rw [step, executed, andThen_assoc]
  rfl

/-! ## The interrupt condition -/

theorem irqLine_iff (s : State) : s.irqLine = true ↔ s.iStat &&& s.iMask ≠ 0 := bne_iff_ne

/-- SR bit 0, and one of CAUSE bits 15:10 that SR enables (60_exceptions R316). -/
theorem interruptDue_iff (s : State) :
    s.interruptDue = true ↔
      s.sr.getLsbD 0 = true ∧ ∃ k < 6, s.cause.getLsbD (10 + k) = true ∧ s.sr.getLsbD (10 + k) = true := by
  unfold State.interruptDue testBit
  rw [Bool.and_eq_true, bne_iff_ne]
  refine and_congr_right fun _ => ⟨fun nonzero => ?_, fun ⟨k, inside, pending, enabled⟩ zero => ?_⟩
  · by_contra none
    refine nonzero (BitVec.eq_of_getLsbD_eq fun k inside => ?_)
    have : ¬ (s.cause.getLsbD (10 + k) = true ∧ s.sr.getLsbD (10 + k) = true) := fun both => none ⟨k, inside, both⟩
    simpa [inside] using this
  · simpa [inside, pending, enabled] using congrArg (fun w => BitVec.getLsbD w k) zero

/-- CAUSE bits 15:10 after the poll: bit 10 is the line, the others as before (60_exceptions R315). -/
theorem getLsbD_poll_cause (s : State) (i : Nat) :
    s.poll.cause.getLsbD i = if i = 10 then s.irqLine else s.cause.getLsbD i :=
  getLsbD_setBit s.cause 10 s.irqLine (by decide) i

/-- The line and its enable make an interrupt due, whatever the other bits hold (60_exceptions R316). -/
theorem interruptDue_of_line {s : State} (iec : s.sr.getLsbD 0 = true) (enabled : s.sr.getLsbD 10 = true)
    (line : s.irqLine = true) : s.poll.interruptDue = true :=
  (interruptDue_iff _).2 ⟨iec, 0, by decide, by rw [getLsbD_poll_cause, if_pos rfl, line], enabled⟩

/-- With CAUSE bits 15:11 at 0 nothing but the line makes an interrupt due. -/
theorem line_of_interruptDue {s : State} (reserved : causeReserved s) (due : s.poll.interruptDue = true) :
    s.sr.getLsbD 0 = true ∧ s.sr.getLsbD 10 = true ∧ s.irqLine = true := by
  obtain ⟨iec, k, inside, pending, enabled⟩ := (interruptDue_iff _).1 due
  rw [getLsbD_poll_cause] at pending
  split at pending
  case isTrue isTen => exact ⟨iec, isTen ▸ enabled, pending⟩
  case isFalse notTen =>
    have clear : s.cause.getLsbD (10 + k) = false := by
      have mask : ∀ k < 6, k ≠ 0 → (0x4FFFF883 : Word).getLsbD (10 + k) = true := by decide
      exact (and_mask_eq_zero_iff _ _).1 reserved _ (by omega) (mask k inside (by omega))
    rw [clear] at pending
    cases pending

/-! ## Exception entry after the poll -/

/-- CAUSE after an entry before the execute: the poll's bit 10, the code, and BD (60_exceptions R300, R301, R315). -/
theorem recordCause_poll (s : State) (e : Exception) (victim follower : Word) :
    recordCause s.poll.cause e.code (inDelaySlot victim follower) 0 =
      (s.cause &&& 0x4FFFFB83) ||| (if s.irqLine then 0x00000400 else 0) ||| BitVec.ofNat 32 (4 * e.code.toNat) |||
        (if follower = victim + 4 then 0 else 0x80000000) := by
  have polled : s.poll.cause &&& 0x4FFFFF83 = (s.cause &&& 0x4FFFFB83) ||| (if s.irqLine then 0x00000400 else 0) := by
    apply BitVec.eq_of_getLsbD_eq
    intro i hi
    rw [BitVec.getLsbD_and, getLsbD_poll_cause]
    cases s.irqLine <;> interval_cases i <;> simp
  have shifted : e.code.setWidth 32 <<< 2 = BitVec.ofNat 32 (4 * e.code.toNat) := by cases e <;> rfl
  rw [recordCause_eq, Nat.cast_ofNat, polled, shifted]
  by_cases follows : follower = victim + 4 <;> simp [inDelaySlot, follows]

theorem epc_enterException (s : State) (e : Exception) (victim follower : Word) (ce : BitVec 2) :
    (s.enterException e victim follower ce).epc = if follower = victim + 4 then victim else victim - 4 := by
  by_cases follows : follower = victim + 4 <;> simp [inDelaySlot, follows]

theorem vector_eq (s : State) : s.vector = if s.sr.getLsbD 22 then 0xBFC00180 else 0x80000080 := rfl

/-- CAUSE bit 10 set over any value of that bit. -/
theorem mask_or_line (c : Word) : (c &&& 0x4FFFFB83) ||| 0x00000400 = (c &&& 0x4FFFFF83) ||| 0x00000400 := by
  apply BitVec.eq_of_getLsbD_eq
  intro i hi
  interval_cases i <;> simp

/-- Settles O26: the condition by its bits, the entry on the polled state. -/
theorem interruptIsTakenBeforeTheFetch : Obligations.InterruptIsTakenBeforeTheFetch := by
  unfold Obligations.InterruptIsTakenBeforeTheFetch
  refine ⟨fun s reserved => ⟨fun due => ?_, fun ⟨iec, enabled, line⟩ => ?_⟩, fun s iec enabled line => ?_⟩
  · rw [← irqLine_iff]
    exact line_of_interruptDue reserved due
  · exact interruptDue_of_line iec enabled ((irqLine_iff s).2 line)
  · have up := (irqLine_iff s).2 line
    have taken := cpuStep_of_interruptDue (interruptDue_of_line iec enabled up)
    have cause : s.poll.takeInterrupt.cause =
        (s.cause &&& 0x4FFFFF83) ||| 0x00000400 ||| (if s.nextPc = s.pc + 4 then 0 else 0x80000000) := by
      have recorded := recordCause_poll s Exception.interrupt s.pc s.nextPc
      rw [if_pos up, mask_or_line] at recorded
      exact recorded.trans (by simp [Exception.code])
    exact ⟨s.poll.takeInterrupt, taken, step_of_cpuStep taken, pushStatus_eq s.sr, cause,
      epc_enterException s.poll .interrupt s.pc s.nextPc 0, vector_eq s, rfl, rfl⟩

/-- Settles O27: the entry on the polled and latched state, with BadVAddr written. -/
theorem misalignedFetchTraps : Obligations.MisalignedFetchTraps := by
  unfold Obligations.MisalignedFetchTraps
  intro s idle misaligned
  have taken := cpuStep_of_misaligned idle misaligned
  exact ⟨s.poll.latch.takeFetchError, taken, step_of_cpuStep taken, pushStatus_eq s.sr,
    recordCause_poll s Exception.addressErrorLoad s.pc s.nextPc,
    epc_enterException { s.poll.latch with badVaddr := s.pc } .addressErrorLoad s.pc s.nextPc 0, rfl, vector_eq s, rfl, rfl⟩

/-! ## The load delay -/

/-- A loaded register reads as before in the next instruction, unless an earlier load lands in it and is not discarded
(40_cpu_step R165, R167). -/
theorem x_loadFrom_same (s : State) (rt : Reg) (a : Word) (n : Width) (f : Word → Word)
    (h : s.pending.index ≠ rt ∨ s.params.loadDiscard = true) : (s.loadFrom rt a n f).x rt = s.x rt := by
  obtain ⟨⟨-, regs⟩, -⟩ := loadFrom_spec s rt a n f
  rw [regs]
  by_cases discard : s.params.loadDiscard = true
  · rw [if_pos ⟨discard, rfl⟩]
  · have other : rt ≠ s.pending.index := fun same => (h.resolve_right discard) same.symm
    rw [if_neg fun both => discard both.1, landedReg, if_neg other]
    split
    case isTrue zero => rw [zero, State.x_zero]
    case isFalse => rfl

theorem pending_loadFrom (s : State) (rt : Reg) (a : Word) (n : Width) (f : Word → Word) :
    (s.loadFrom rt a n f).pending = { index := rt, value := f (s.memRead a n).1 } := (loadFrom_spec s rt a n f).1.1

theorem exec_lw_aligned {s : State} {base : Reg} {offset : Half} (rt : Reg)
    (aligned : (s.effectiveAddress base offset).toNat % 4 = 0) :
    exec (.lw rt offset base) s = .next (s.loadFrom rt (s.effectiveAddress base offset) .word asWord) := by
  rw [exec_lw, if_pos aligned]

/-- A word-aligned byte of main RAM has a word-aligned address in every region. -/
theorem aligned_of_ramAddress {a : Word} {k : Nat} (ram : ramAddress a k) (aligned : k % 4 = 0) : a.toNat % 4 = 0 := by
  rw [ramAddress_iff] at ram
  omega

/-- A word of main RAM, the least significant byte first (20_memory R75, R83). -/
theorem memRead_ram_word (s : State) {a : Word} {k : Nat} (ram : ramAddress a k) :
    (s.memRead a .word).1 = s.ramByte (k + 3) ++ s.ramByte (k + 2) ++ s.ramByte (k + 1) ++ s.ramByte k := by
  rw [memRead_ram s ram, ← readBytes_four]
  rfl

/-- Settles O29: the load leaves the register and fills the slot; the ADDU reads the register, and the slot lands under it. -/
theorem loadDelaySlotReadsTheOldValue : Obligations.LoadDelaySlotReadsTheOldValue := by
  unfold Obligations.LoadDelaySlotReadsTheOldValue
  refine fun s rt rd base offset =>
    ⟨fun k ram aligned rtNonzero rdNonzero other free => ?_, fun discard landing _ aligned => ?_⟩
  · let a := s.effectiveAddress base offset
    let t := s.loadFrom rt a .word asWord
    have loaded := exec_lw_aligned rt (aligned_of_ramAddress ram aligned)
    have old : t.x rt = s.x rt := x_loadFrom_same s rt a .word asWord (.inl free)
    refine ⟨t, t.writeResult rd (t.x rt + t.x 0), loaded, rfl, old, ?_, ?_⟩
    · rw [State.x_writeResult, if_neg rdNonzero, if_pos rfl, State.x_zero, old]
      exact BitVec.add_zero _
    · have slot : t.pending = { index := rt, value := (s.memRead a .word).1 } := pending_loadFrom s rt a .word asWord
      rw [State.x_writeResult, if_neg rtNonzero, if_neg (Ne.symm other), landedReg, if_neg rtNonzero, slot, if_pos rfl,
        memRead_ram_word s ram]
  · have slot := pending_loadFrom s rt (s.effectiveAddress base offset) .word asWord
    exact ⟨_, exec_lw_aligned rt aligned, x_loadFrom_same s rt _ .word asWord (.inr discard), by rw [slot], by rw [slot]; rfl⟩

end Machine
end Sys2Proof
end

section
/-! Runs: where they end, and how they compose (40_cpu_step R174, 70_reset_and_hazards R560, R563). -/

namespace Sys2Proof
namespace Machine

/-! ## The end of a run -/

/-- The step count at which a run ends, where the parameter gives a number of steps or frames (log 25). -/
def endCount : RunEnd → Option Nat
  | .steps n => some n
  | .frames n => some (n * Config.frameSteps)
  | .pcReaches _ => none

theorem runEnded_iff_of_count {s : State} {m : Nat} (h : endCount s.params.runEnd = some m) :
    s.runEnded = true ↔ m ≤ s.stepCount := by
  unfold State.runEnded
  cases ends : s.params.runEnd with
  | steps n => rw [ends] at h; cases h; exact decide_eq_true_iff
  | frames n => rw [ends] at h; cases h; exact decide_eq_true_iff
  | pcReaches a => rw [ends] at h; cases h

theorem runEnded_iff_of_pcReaches {s : State} {a : Word} (h : s.params.runEnd = .pcReaches a) :
    s.runEnded = true ↔ s.pc = a := by
  simp [State.runEnded, h]

/-! ## What a run counts -/

/-- A run of at most `limit + 1` steps has ended already, or takes one step and goes on. -/
theorem run_succ_cases {limit : Nat} {s t : State} (h : run (limit + 1) s = .next t) :
    (s.runEnded = true ∧ t = s) ∨ (s.runEnded = false ∧ ∃ u, step s = .next u ∧ run limit u = .next t) := by
  cases ended : s.runEnded with
  | true => rw [run_of_ended ended] at h; cases h; exact .inl ⟨rfl, rfl⟩
  | false => rw [run_succ ended] at h; exact .inr ⟨rfl, andThen_eq_next h⟩

theorem run_params {limit : Nat} {s t : State} (h : run limit s = .next t) : t.params = s.params :=
  run_keeps (P := fun u => u.params = s.params) (fun same stepped => (step_counts stepped).2.trans same) limit rfl h

/-- A run counts each of its steps, and stops before its cut-off at an end only (70_reset_and_hazards R560). -/
theorem run_stepCount (limit : Nat) {s t : State} (h : run limit s = .next t) :
    s.stepCount ≤ t.stepCount ∧ t.stepCount ≤ s.stepCount + limit ∧
      (t.stepCount < s.stepCount + limit → t.runEnded = true) := by
  induction limit generalizing s with
  | zero => cases h; exact ⟨Nat.le_refl _, Nat.le_refl _, fun less => absurd less (Nat.lt_irrefl _)⟩
  | succ limit ih =>
    rcases run_succ_cases h with ⟨ended, rfl⟩ | ⟨-, u, stepped, rest⟩
    · exact ⟨Nat.le_refl _, Nat.le_add_right _ _, fun _ => ended⟩
    · obtain ⟨counted, -⟩ := step_counts stepped
      obtain ⟨low, high, early⟩ := ih rest
      exact ⟨by omega, by omega, fun less => early (by omega)⟩

/-- A run does not pass the count at which it ends: it steps from a lower count only. -/
theorem run_stepCount_le (limit : Nat) {s t : State} {m : Nat} (h : run limit s = .next t)
    (ends : endCount s.params.runEnd = some m) (start : s.stepCount ≤ m) : t.stepCount ≤ m := by
  induction limit generalizing s with
  | zero => cases h; exact start
  | succ limit ih =>
    rcases run_succ_cases h with ⟨-, rfl⟩ | ⟨goesOn, u, stepped, rest⟩
    · exact start
    · obtain ⟨counted, params⟩ := step_counts stepped
      have before : ¬ m ≤ s.stepCount := by rw [← runEnded_iff_of_count ends, goesOn]; decide
      exact ih rest (by rw [params]; exact ends) (by omega)

/-- A run whose end is a count inside its cut-off stops at that count. -/
theorem run_stops_at_count {limit : Nat} {s t : State} {m : Nat} (h : run limit s = .next t)
    (ends : endCount s.params.runEnd = some m) (start : s.stepCount ≤ m) (inside : m ≤ s.stepCount + limit) :
    t.stepCount = m := by
  refine Nat.le_antisymm (run_stepCount_le limit h ends start) ?_
  obtain ⟨-, high, early⟩ := run_stepCount limit h
  by_contra below
  have ended : t.runEnded = true := early (by omega)
  rw [runEnded_iff_of_count (by rw [run_params h]; exact ends)] at ended
  exact below ended

/-! ## Runs in parts -/

/-- A run of `m + k` steps is one of `m` and then one of `k`: a run that ended in the first part stays there. -/
theorem run_add (m k : Nat) (s : State) : run (m + k) s = andThen (run m s) (run k) := by
  induction m generalizing s with
  | zero => rw [Nat.zero_add, run_zero, andThen_next]
  | succ m ih =>
    cases ended : s.runEnded with
    | true => rw [run_of_ended ended, run_of_ended ended, andThen_next, run_of_ended ended]
    | false =>
      rw [Nat.succ_add, run_succ ended, run_succ ended, andThen_assoc]
      exact congrArg (andThen (step s)) (funext ih)

/-- Settles O60: the counts of a run, its stop at a count or an address, and its parts. -/
theorem runsEndWhereTheParameterSays : Obligations.RunsEndWhereTheParameterSays := by
  unfold Obligations.RunsEndWhereTheParameterSays
  refine ⟨fun s t k h => ?_, fun s m k => ⟨fun ended => run_of_ended ended k, run_add m k s⟩⟩
  obtain ⟨low, high, early⟩ := run_stepCount k h
  refine ⟨run_params h, low, high, early, fun n ends => ?_, fun n ends => ?_, fun a ends less => ?_⟩
  · exact run_stops_at_count h (by rw [ends]; rfl)
  · exact run_stops_at_count h (by rw [ends]; rfl)
  · exact (runEnded_iff_of_pcReaches (by rw [run_params h]; exact ends)).1 (early less)

theorem run_of_step_to_end {s t : State} (goesOn : s.runEnded = false) (stepped : step s = .next t)
    (ended : t.runEnded = true) (limit : Nat) : run (limit + 1) s = .next t := by
  rw [run_succ goesOn, stepped, andThen_next, run_of_ended ended]

/-- The reset state at a misaligned `pc`, its run to end after one step. -/
def oneStepFromMisaligned : State :=
  { State.reset with pc := 1, params := { Params.atReset with runEnd := .steps 1 } }

/-- A run cut off after three steps that its end stops after one: the hypotheses of the statement are met. -/
theorem witness_run_stops_at_count : ∃ t, run 3 oneStepFromMisaligned = .next t ∧ t.stepCount = 1 := by
  have stepped := step_of_cpuStep (cpuStep_of_misaligned (s := oneStepFromMisaligned) (by decide) (by decide))
  obtain ⟨counted, params⟩ := step_counts stepped
  have ended := (runEnded_iff_of_count (m := 1) (by rw [params]; rfl)).2 (Nat.le_of_eq counted.symm)
  have answered := run_of_step_to_end (by decide) stepped ended 2
  exact ⟨_, answered, run_stops_at_count answered rfl (by decide) (by decide)⟩

end Machine
end Sys2Proof
end

section
/-! Immediate arithmetic and logic, and the three signed sums and differences that can trap (41_alu_immediate; 44_alu_register
R220, R222). -/

namespace Sys2Proof

/-- `op` = 0x00 is selected by `funct` (30_encoding R138). -/
theorem decode_special {w : Word} (h : fieldOp w = 0x00#6) : decode w = decodeSpecial w := by
  simp only [decode, h]

namespace Machine

open Safety

/-! ## Results that always fit -/

/-- LUI in plain arithmetic (41_alu_immediate R180). -/
theorem exec_lui (s : State) (rt : Reg) (imm : Half) :
    exec (.lui rt imm) s = .next (s.writeResult rt (BitVec.ofNat 32 (65536 * imm.toNat))) := by
  rw [← upperImm_eq]; rfl

/-- ORI with its immediate as a number (41_alu_immediate R181). -/
theorem exec_ori (s : State) (rt rs : Reg) (imm : Half) :
    exec (.ori rt rs imm) s = .next (s.writeResult rt (s.x rs ||| BitVec.ofNat 32 imm.toNat)) := by
  rw [← zeroExt16_eq]; rfl

/-- ANDI with its immediate as a number (41_alu_immediate R182). -/
theorem exec_andi (s : State) (rt rs : Reg) (imm : Half) :
    exec (.andi rt rs imm) s = .next (s.writeResult rt (s.x rs &&& BitVec.ofNat 32 imm.toNat)) := by
  rw [← zeroExt16_eq]; rfl

/-- ADDIU with its immediate as a signed number (41_alu_immediate R184). -/
theorem exec_addiu (s : State) (rt rs : Reg) (imm : Half) :
    exec (.addiu rt rs imm) s = .next (s.writeResult rt (s.x rs + BitVec.ofInt 32 imm.toInt)) := by
  rw [← signExt16_eq]; rfl

/-- SLTI compares two signed numbers (41_alu_immediate R185). -/
theorem exec_slti (s : State) (rt rs : Reg) (imm : Half) :
    exec (.slti rt rs imm) s = .next (s.writeResult rt (if (s.x rs).toInt < imm.toInt then 1 else 0)) := by
  rw [← toInt_signExt16, ← boolWord_decide]; rfl

/-- SLTIU compares the sign-extended immediate as an unsigned number (41_alu_immediate R186). -/
theorem exec_sltiu (s : State) (rt rs : Reg) (imm : Half) :
    exec (.sltiu rt rs imm) s =
      .next (s.writeResult rt (if (s.x rs).toNat < (BitVec.ofInt 32 imm.toInt).toNat then 1 else 0)) := by
  rw [← signExt16_eq, ← boolWord_decide]; rfl

/-- An instruction that answers `writeResult` writes its register over the landing, and nothing else. -/
theorem wrote_of_exec {i : Instr} {s : State} {d : Reg} {v : Word} (answered : exec i s = .next (s.writeResult d v)) :
    ∃ t, exec i s = .next t ∧ wrote s d v s.hi s.lo s.nextPc t :=
  ⟨_, answered, wrote_writeResult s d v⟩

/-- Settles O4: `op` selects the row of the decoder, and each instruction is `writeResult` of its result. -/
theorem immediateInstructionsWriteTheirResult : Obligations.ImmediateInstructionsWriteTheirResult := by
  unfold Obligations.ImmediateInstructionsWriteTheirResult
  refine ⟨fun w => ?words, fun s rt rs imm => ⟨wrote_of_exec (exec_lui s rt imm), wrote_of_exec (exec_ori s rt rs imm),
    wrote_of_exec (exec_andi s rt rs imm), wrote_of_exec (exec_addiu s rt rs imm), wrote_of_exec (exec_slti s rt rs imm),
    wrote_of_exec (exec_sltiu s rt rs imm)⟩⟩
  case words =>
    refine ⟨fun op => ?_, fun op => ?_, fun op => ?_, fun op => ?_, fun op => ?_, fun op => ?_⟩
    all_goals simp only [decode, fieldOp, op, fieldRs, fieldRt, fieldImm16, BitVec.ofNat_eq_ofNat]

/-! ## Results that can overflow -/

/-- `r` is the value of a signed 32-bit word (41_alu_immediate R183). -/
def fitsSigned (r : Int) : Prop := -2 ^ 31 ≤ r ∧ r < 2 ^ 31

/-- An instruction whose exact result is `r` writes it where it fits, and takes the overflow exception where it does not. -/
def deliversOrTraps (i : Instr) (s : State) (d : Reg) (r : Int) : Prop :=
  (fitsSigned r → exec i s = .next (s.writeResult d (BitVec.ofInt 32 r))) ∧
    (¬fitsSigned r → exec i s = .next (s.raise .overflow))

/-- The two ends of an instruction that tests for overflow: `v` is its wrapped result, `r` the exact one. -/
theorem deliversOrTraps_of_test {i : Instr} {s : State} {d : Reg} {r : Int} {v : Word} {overflows : Bool}
    (answered : exec i s = if overflows then .next (s.raise .overflow) else .next (s.writeResult d v))
    (test : overflows = true ↔ ¬fitsSigned r) (wrapped : v = BitVec.ofInt 32 r) : deliversOrTraps i s d r := by
  refine ⟨fun fits => ?_, fun overflow => ?_⟩
  · rw [answered, if_neg fun hit => test.1 hit fits, wrapped]
  · rw [answered, if_pos (test.2 overflow)]

/-- The word sum is the exact signed sum, wrapped. -/
theorem add_eq_ofInt (a b : Word) : a + b = BitVec.ofInt 32 (a.toInt + b.toInt) := by
  rw [BitVec.ofInt_add, BitVec.ofInt_toInt, BitVec.ofInt_toInt]

/-- The word difference is the exact signed difference, wrapped. -/
theorem sub_eq_ofInt (a b : Word) : a - b = BitVec.ofInt 32 (a.toInt - b.toInt) := by
  rw [Int.sub_eq_add_neg, BitVec.ofInt_add, BitVec.ofInt_neg, BitVec.ofInt_toInt, BitVec.ofInt_toInt, BitVec.sub_eq_add_neg]

/-- ADDI: the exact sum is that of the register and the sign-extended immediate (41_alu_immediate R183). -/
theorem addi_deliversOrTraps (s : State) (rt rs : Reg) (imm : Half) :
    deliversOrTraps (.addi rt rs imm) s rt ((s.x rs).toInt + imm.toInt) := by
  rw [← toInt_signExt16]
  exact deliversOrTraps_of_test rfl (addOverflows_iff _ _) (add_eq_ofInt _ _)

/-- ADD: the exact sum is that of the two registers (44_alu_register R220). -/
theorem add_deliversOrTraps (s : State) (rd rs rt : Reg) :
    deliversOrTraps (.add rd rs rt) s rd ((s.x rs).toInt + (s.x rt).toInt) :=
  deliversOrTraps_of_test rfl (addOverflows_iff _ _) (add_eq_ofInt _ _)

/-- SUB: the exact difference is that of the two registers (44_alu_register R222). -/
theorem sub_deliversOrTraps (s : State) (rd rs rt : Reg) :
    deliversOrTraps (.sub rd rs rt) s rd ((s.x rs).toInt - (s.x rt).toInt) :=
  deliversOrTraps_of_test rfl (subOverflows_iff _ _) (sub_eq_ofInt _ _)

/-- The frames of the two ends: one register written over the landing, or exception entry with code 12. -/
theorem frames_of_deliversOrTraps {i : Instr} {s : State} {d : Reg} {r : Int}
    (ends : deliversOrTraps i s d r) :
    (fitsSigned r → ∃ t, exec i s = .next t ∧ wrote s d (BitVec.ofInt 32 r) s.hi s.lo s.nextPc t) ∧
      (¬fitsSigned r → ∃ t, exec i s = .next t ∧ tookException s 12 0 s.badVaddr t) := by
  obtain ⟨delivers, traps⟩ := ends
  exact ⟨fun fits => wrote_of_exec (delivers fits), fun overflow => ⟨_, traps overflow, tookException_raise s .overflow⟩⟩

/-- Settles O7: the model's overflow tests say exactly that the signed result does not fit in 32 bits. -/
theorem addAndSubtractDeliverOrTrap : Obligations.AddAndSubtractDeliverOrTrap := by
  unfold Obligations.AddAndSubtractDeliverOrTrap
  refine ⟨fun w => ⟨fun op => ?_, fun op funct => ?_, fun op funct => ?_⟩, fun s rd rs rt imm =>
    ⟨frames_of_deliversOrTraps (addi_deliversOrTraps s rd rs imm), frames_of_deliversOrTraps (add_deliversOrTraps s rd rs rt),
      frames_of_deliversOrTraps (sub_deliversOrTraps s rd rs rt)⟩⟩
  · simp only [decode, fieldOp, op, fieldRs, fieldRt, fieldImm16, BitVec.ofNat_eq_ofNat]
  · simp only [decode_special op, decodeSpecial, fieldFunct, funct, fieldRs, fieldRt, fieldRd, BitVec.ofNat_eq_ofNat]
  · simp only [decode_special op, decodeSpecial, fieldFunct, funct, fieldRs, fieldRt, fieldRd, BitVec.ofNat_eq_ofNat]

end Machine
end Sys2Proof
end

section
/-! Loads and stores that complete, and what the other instructions leave of memory (42_load_store). -/

namespace Sys2Proof
namespace Machine

open Safety

/-! ## Loads that complete -/

/-- LB loads at every address (42_load_store R195). -/
theorem exec_lb (s : State) (rt base : Reg) (offset : Half) :
    exec (.lb rt offset base) s = .next (s.loadFrom rt (s.effectiveAddress base offset) .byte asSignedByte) := rfl

/-- LBU loads at every address (42_load_store R196). -/
theorem exec_lbu (s : State) (rt base : Reg) (offset : Half) :
    exec (.lbu rt offset base) s = .next (s.loadFrom rt (s.effectiveAddress base offset) .byte asUnsignedByte) := rfl

/-- `t` is `s` after the delayed load of `v` into `rt`, with what the read of `n` bytes at `a` changed in a device, and nothing
else (42_load_store R191; 20_memory R100). -/
def loaded (s : State) (rt : Reg) (a : Word) (n : Width) (v : Word) (t : State) : Prop :=
  loadDelayed s rt v t ∧ memorySame s t ∧
    t = { s with
      regs := t.regs, pending := { index := rt, value := v }, cd := (s.memRead a n).2.cd,
      gpu := (s.memRead a n).2.gpu, freeCount := (s.memRead a n).2.freeCount }

/-- A load writes none of the three stores, whatever its read changes in a device. -/
theorem memorySame_loadFrom (s : State) (rt : Reg) (a : Word) (n : Width) (f : Word → Word) :
    memorySame s (s.loadFrom rt a n f) := by
  obtain ⟨-, frame⟩ := loadFrom_spec s rt a n f
  rw [frame]
  exact memorySame_of_eq rfl rfl rfl

theorem loaded_loadFrom (s : State) (rt : Reg) (a : Word) (n : Width) (f : Word → Word) :
    loaded s rt a n (f (s.memRead a n).1) (s.loadFrom rt a n f) := by
  obtain ⟨delayed, frame⟩ := loadFrom_spec s rt a n f
  exact ⟨delayed, memorySame_loadFrom s rt a n f, frame⟩

/-- An instruction that answers `loadFrom` delays the value it read, extended: `v` is that value in plain arithmetic. -/
theorem loaded_of_exec {i : Instr} {s : State} {rt : Reg} {a v : Word} {n : Width} {f : Word → Word}
    (answered : exec i s = .next (s.loadFrom rt a n f)) (value : f (s.memRead a n).1 = v) :
    ∃ t, exec i s = .next t ∧ loaded s rt a n v t :=
  ⟨_, answered, value ▸ loaded_loadFrom s rt a n f⟩

/-- Settles O11: an aligned load is `loadFrom` with its own width and extension. -/
theorem alignedLoadsAreDelayed : Obligations.AlignedLoadsAreDelayed := by
  unfold Obligations.AlignedLoadsAreDelayed
  refine ⟨fun w => ?words, fun s rt base offset => ?loads⟩
  case words =>
    refine ⟨fun op => ?_, fun op => ?_, fun op => ?_, fun op => ?_, fun op => ?_⟩
    all_goals simp only [decode, fieldOp, op, fieldRs, fieldRt, fieldImm16, BitVec.ofNat_eq_ofNat]
  case loads =>
    rw [← effectiveAddress_eq]
    refine ⟨fun aligned => loaded_of_exec (exec_lw_aligned rt aligned) rfl,
      fun aligned => ⟨loaded_of_exec (f := asSignedHalf) ?_ (asSignedHalf_eq _),
        loaded_of_exec (f := asUnsignedHalf) ?_ (asUnsignedHalf_eq _)⟩,
      loaded_of_exec (exec_lb s rt base offset) (asSignedByte_eq _),
      loaded_of_exec (exec_lbu s rt base offset) (asUnsignedByte_eq _)⟩
    · rw [exec_lh, if_pos aligned]
    · rw [exec_lhu, if_pos aligned]

/-! ## Stores into main RAM -/

/-- `t` is `s` after the landing and a store of the `n` low bytes of `v` at byte `k` of main RAM, the least significant first
(20_memory R75; 42_load_store R197 to R199). -/
def storedBytes (s : State) (k n : Nat) (v : Word) (t : State) : Prop :=
  (∀ r, t.x r = landedReg s r) ∧
    (∀ j, t.ramByte j = if k ≤ j ∧ j < k + n then v.extractLsb' (8 * (j - k)) 8 else s.ramByte j) ∧
    t = { s with regs := t.regs, pending := { index := 0, value := 0 }, ram := t.ram }

/-- An aligned access that starts in main RAM ends in it: the size of main RAM is a multiple of every width. -/
theorem ramAddress_access_inside {a : Word} {k : Nat} (ram : ramAddress a k) {n : Width}
    (aligned : a.toNat % n.bytes = 0) : k + n.bytes ≤ Config.ramSize := by
  rw [ramAddress_iff] at ram
  unfold Config.ramSize
  cases n <;> simp only [Width.bytes] at aligned ⊢ <;> omega

theorem storedBytes_land_ramWrite {s : State} (canonical : storesCanonical s) {k n : Nat} (inside : k + n ≤ Config.ramSize)
    (v : Word) : storedBytes s k n v (s.land.ramWrite k n v) := by
  obtain ⟨wf, -, -⟩ := canonical
  obtain ⟨-, -, ramLanded, -, -⟩ := drained_land s
  have written := State.ramWrite_eq s.land k n v
  refine ⟨fun r => ?_, fun j => ?_, ?_⟩
  · have regs : (s.land.ramWrite k n v).regs = s.land.regs := by rw [written]
    rw [State.x_of_regs_eq regs, State.x_land]
  · rw [State.ramByte_ramWrite s.land (by rwa [State.land_ram]) k n v inside, ramLanded]
  · have landed := State.land_eq s
    generalize s.land.ramWrite k n v = t at written ⊢
    rw [written, landed]

/-- A store that passed its alignment check, into main RAM with the cache not isolated (42_load_store R200). -/
theorem storeTo_ram {s : State} {a : Word} {k : Nat} (canonical : storesCanonical s) (reached : s.sr.getLsbD 16 = false)
    (ram : ramAddress a k) {n : Width} (aligned : a.toNat % n.bytes = 0) (v : Word) :
    ∃ t, s.storeTo a n v = .next t ∧ storedBytes s k n.bytes v t :=
  ⟨_, memWrite_ram s.land ram (by rwa [State.land_sr]) n v,
    storedBytes_land_ramWrite canonical (ramAddress_access_inside ram aligned) v⟩

/-- Settles O12: an aligned store is `storeTo` of its width, and every byte address is aligned for SB. -/
theorem storesToRamWriteTheirBytes : Obligations.StoresToRamWriteTheirBytes := by
  unfold Obligations.StoresToRamWriteTheirBytes
  refine ⟨fun w => ?words, fun s rt base offset k => ?stores⟩
  case words =>
    refine ⟨fun op => ?_, fun op => ?_, fun op => ?_⟩
    all_goals simp only [decode, fieldOp, op, fieldRs, fieldRt, fieldImm16, BitVec.ofNat_eq_ofNat]
  case stores =>
    intro a after canonical reached ram
    refine ⟨fun aligned => ?_, fun aligned => ?_, ?_⟩
    · rw [exec_sw, if_pos aligned]
      exact storeTo_ram canonical reached ram (n := .word) aligned (s.x rt)
    · rw [exec_sh, if_pos aligned]
      exact storeTo_ram canonical reached ram (n := .half) aligned (s.x rt)
    · rw [exec_sb]
      exact storeTo_ram canonical reached ram (n := .byte) (Nat.mod_one _) (s.x rt)

/-! ## Instructions that are no stores -/

/-- Settles O23: of the six ways an instruction ends (`exec_cases`), one is a store, and the other five leave the stores. -/
theorem onlyStoresWriteMemory : Obligations.OnlyStoresWriteMemory := by
  unfold Obligations.OnlyStoresWriteMemory
  intro i s t h noStore
  rcases exec_cases h with ⟨_, _, _, _, _, ⟨-, -, same⟩, -⟩ | ⟨_, _, _, ⟨-, -, -, -, -, -, -, same⟩, -⟩ |
    ⟨rt, a, n, f, rfl, -⟩ | ⟨-, -, rt, offset, base, store⟩ | ⟨_, _, -, frame⟩ | ⟨⟨_, _, -, -, same⟩, -⟩
  · exact same
  · exact same
  · exact memorySame_loadFrom s rt a n f
  · obtain ⟨notSw, notSh, notSb⟩ := noStore rt offset base
    rcases store with isSw | isSh | isSb
    · exact absurd isSw notSw
    · exact absurd isSh notSh
    · exact absurd isSb notSb
  · rw [frame]; exact memorySame_of_eq rfl rfl rfl
  · exact same

end Machine
end Sys2Proof
end

section
/-! Shifts by a field and by a register, as multiplication and division by a power of two (43_shift). -/

namespace Sys2Proof
namespace Machine

open Safety

/-! ## The three shifts in plain arithmetic -/

/-- Bits shifted past bit 31 are those that the wrap at 2 ^ 32 drops (43_shift R210). -/
theorem shiftLeft_eq_mul (a : Word) (n : Nat) : a <<< n = BitVec.ofNat 32 (a.toNat * 2 ^ n) := by
  apply BitVec.eq_of_toNat_eq
  rw [BitVec.toNat_shiftLeft, Nat.shiftLeft_eq, BitVec.toNat_ofNat]

/-- Zeros entering at bit 31: unsigned division (43_shift R211). -/
theorem ushiftRight_eq_div (a : Word) (n : Nat) : a >>> n = BitVec.ofNat 32 (a.toNat / 2 ^ n) := by
  rw [← Nat.shiftRight_eq_div_pow, ← BitVec.toNat_ushiftRight, BitVec.ofNat_toNat, BitVec.setWidth_eq]

/-- Copies of the sign entering at bit 31: signed division, rounded toward minus infinity (43_shift R212). -/
theorem sshiftRight_eq_div (a : Word) (n : Nat) : a.sshiftRight n = BitVec.ofInt 32 (a.toInt / 2 ^ n) := by
  rw [BitVec.sshiftRight, Int.shiftRight_eq_div_pow, Int.natCast_pow, Nat.cast_ofNat]

/-! ## The six instructions -/

/-- SLL multiplies by a power of two (43_shift R210). -/
theorem exec_sll (s : State) (rd rt : Reg) (n : Nat) :
    exec (.sll rd rt n) s = .next (s.writeResult rd (BitVec.ofNat 32 ((s.x rt).toNat * 2 ^ n))) := by
  rw [← shiftLeft_eq_mul]; rfl

/-- SRL divides the unsigned number by a power of two (43_shift R211). -/
theorem exec_srl (s : State) (rd rt : Reg) (n : Nat) :
    exec (.srl rd rt n) s = .next (s.writeResult rd (BitVec.ofNat 32 ((s.x rt).toNat / 2 ^ n))) := by
  rw [← ushiftRight_eq_div]; rfl

/-- SRA divides the signed number by a power of two (43_shift R212). -/
theorem exec_sra (s : State) (rd rt : Reg) (n : Nat) :
    exec (.sra rd rt n) s = .next (s.writeResult rd (BitVec.ofInt 32 ((s.x rt).toInt / 2 ^ n))) := by
  rw [← sshiftRight_eq_div]; rfl

/-- SLLV is SLL by the low five bits of `rs` (43_shift R213). -/
theorem exec_sllv (s : State) (rd rt rs : Reg) : exec (.sllv rd rt rs) s = exec (.sll rd rt ((s.x rs).toNat % 32)) s := by
  rw [← shiftAmount_eq]; rfl

/-- SRLV is SRL by the low five bits of `rs` (43_shift R214). -/
theorem exec_srlv (s : State) (rd rt rs : Reg) : exec (.srlv rd rt rs) s = exec (.srl rd rt ((s.x rs).toNat % 32)) s := by
  rw [← shiftAmount_eq]; rfl

/-- SRAV is SRA by the low five bits of `rs` (43_shift R215). -/
theorem exec_srav (s : State) (rd rt rs : Reg) : exec (.srav rd rt rs) s = exec (.sra rd rt ((s.x rs).toNat % 32)) s := by
  rw [← shiftAmount_eq]; rfl

/-- Settles O5: each shift is `writeResult` of its result, and a variable shift is the fixed one by the low five bits of `rs`. -/
theorem shiftsWriteTheirResult : Obligations.ShiftsWriteTheirResult := by
  unfold Obligations.ShiftsWriteTheirResult
  refine ⟨fun w op => ?words, fun s rd rt rs => ⟨fun n _ => ⟨wrote_of_exec (exec_sll s rd rt n),
    wrote_of_exec (exec_srl s rd rt n), wrote_of_exec (exec_sra s rd rt n)⟩, ?sllv, ?srlv, ?srav⟩⟩
  case words =>
    refine ⟨fun funct => ?_, fun funct => ?_, fun funct => ?_, fun funct => ?_, fun funct => ?_, fun funct => ?_⟩
    all_goals
      simp only [decode_special op, decodeSpecial, fieldFunct, funct, fieldRs, fieldRt, fieldRd, fieldShamt,
        BitVec.ofNat_eq_ofNat]
  case sllv => exact wrote_of_exec ((exec_sllv s rd rt rs).trans (exec_sll s rd rt _))
  case srlv => exact wrote_of_exec ((exec_srlv s rd rt rs).trans (exec_srl s rd rt _))
  case srav => exact wrote_of_exec ((exec_srav s rd rt rs).trans (exec_sra s rd rt _))

end Machine
end Sys2Proof
end

section
/-! Register arithmetic and logic whose result always fits: sums, differences, bitwise results and comparisons (44_alu_register
R221, R223 to R229). -/

namespace Sys2Proof
namespace Machine

open Safety

/-- The word difference is the exact difference of the unsigned numbers, wrapped (44_alu_register R223). -/
theorem sub_eq_ofInt_toNat (a b : Word) : a - b = BitVec.ofInt 32 (a.toNat - b.toNat) := by
  rw [Int.sub_eq_add_neg, BitVec.ofInt_add, BitVec.ofInt_neg, BitVec.ofInt_natCast, BitVec.ofInt_natCast, BitVec.ofNat_toNat,
    BitVec.ofNat_toNat, BitVec.setWidth_eq, BitVec.setWidth_eq, BitVec.sub_eq_add_neg]

/-! ## The eight instructions -/

/-- ADDU wraps the exact sum (44_alu_register R221). -/
theorem exec_addu (s : State) (rd rs rt : Reg) :
    exec (.addu rd rs rt) s = .next (s.writeResult rd (BitVec.ofNat 32 ((s.x rs).toNat + (s.x rt).toNat))) := by
  rw [← BitVec.add_def]; rfl

/-- SUBU wraps the exact difference (44_alu_register R223). -/
theorem exec_subu (s : State) (rd rs rt : Reg) :
    exec (.subu rd rs rt) s = .next (s.writeResult rd (BitVec.ofInt 32 ((s.x rs).toNat - (s.x rt).toNat))) := by
  rw [← sub_eq_ofInt_toNat]; rfl

/-- AND (44_alu_register R224). -/
theorem exec_and (s : State) (rd rs rt : Reg) :
    exec (.and rd rs rt) s = .next (s.writeResult rd (s.x rs &&& s.x rt)) := rfl

/-- OR (44_alu_register R225). -/
theorem exec_or (s : State) (rd rs rt : Reg) :
    exec (.or rd rs rt) s = .next (s.writeResult rd (s.x rs ||| s.x rt)) := rfl

/-- XOR (44_alu_register R226). -/
theorem exec_xor (s : State) (rd rs rt : Reg) :
    exec (.xor rd rs rt) s = .next (s.writeResult rd (s.x rs ^^^ s.x rt)) := rfl

/-- NOR (44_alu_register R227). -/
theorem exec_nor (s : State) (rd rs rt : Reg) :
    exec (.nor rd rs rt) s = .next (s.writeResult rd (~~~(s.x rs ||| s.x rt))) := rfl

/-- SLT compares two signed numbers (44_alu_register R228). -/
theorem exec_slt (s : State) (rd rs rt : Reg) :
    exec (.slt rd rs rt) s = .next (s.writeResult rd (if (s.x rs).toInt < (s.x rt).toInt then 1 else 0)) := by
  rw [← boolWord_decide]; rfl

/-- SLTU compares two unsigned numbers (44_alu_register R229). -/
theorem exec_sltu (s : State) (rd rs rt : Reg) :
    exec (.sltu rd rs rt) s = .next (s.writeResult rd (if (s.x rs).toNat < (s.x rt).toNat then 1 else 0)) := by
  rw [← boolWord_decide]; rfl

/-- Settles O6: `funct` selects the row of the decoder, and each instruction is `writeResult` of its result. -/
theorem registerInstructionsWriteTheirResult : Obligations.RegisterInstructionsWriteTheirResult := by
  unfold Obligations.RegisterInstructionsWriteTheirResult
  refine ⟨fun w op => ?words, fun s rd rs rt => ⟨wrote_of_exec (exec_addu s rd rs rt), wrote_of_exec (exec_subu s rd rs rt),
    wrote_of_exec (exec_and s rd rs rt), wrote_of_exec (exec_or s rd rs rt), wrote_of_exec (exec_xor s rd rs rt),
    wrote_of_exec (exec_nor s rd rs rt), wrote_of_exec (exec_slt s rd rs rt), wrote_of_exec (exec_sltu s rd rs rt)⟩⟩
  case words =>
    refine ⟨fun funct => ?_, fun funct => ?_, fun funct => ?_, fun funct => ?_, fun funct => ?_, fun funct => ?_,
      fun funct => ?_, fun funct => ?_⟩
    all_goals
      simp only [decode_special op, decodeSpecial, fieldFunct, funct, fieldRs, fieldRt, fieldRd, BitVec.ofNat_eq_ofNat]

end Machine
end Sys2Proof
end

section
/-! Multiply, divide and the HI/LO moves: the pair HI, LO as one number, and the two divisions in plain arithmetic (45_muldiv). -/

namespace Sys2Proof
namespace Machine

open Safety

/-! ## The two halves of a product -/

/-- Writing HI before LO restores the 64-bit value they were cut from. -/
theorem halves_append (p : BitVec 64) : p.extractLsb' 32 32 ++ p.extractLsb' 0 32 = p :=
  (BitVec.extractLsb'_append_extractLsb'_eq_extractLsb' (by rfl)).trans BitVec.extractLsb'_eq_self

/-- The halves as one unsigned number. -/
theorem halves_toNat (p : BitVec 64) : (p.extractLsb' 32 32).toNat * 2 ^ 32 + (p.extractLsb' 0 32).toNat = p.toNat := by
  conv_rhs => rw [← halves_append p, BitVec.toNat_append, ← Nat.shiftLeft_add_eq_or_of_lt (BitVec.isLt _), Nat.shiftLeft_eq]

/-- The halves as one signed number: the upper half carries the sign. -/
theorem halves_toInt (p : BitVec 64) : (p.extractLsb' 32 32).toInt * 2 ^ 32 + (p.extractLsb' 0 32).toNat = p.toInt := by
  conv_rhs => rw [← halves_append p, BitVec.toInt_append, if_neg (by decide), mul_comm]

/-- No signed product leaves 64 bits (45_muldiv R235). -/
theorem toInt_productSigned (a b : Word) : (productSigned a b).toInt = a.toInt * b.toInt := by
  have lower : -2 ^ 62 ≤ a.toInt * b.toInt := BitVec.le_toInt_mul_toInt
  have upper : a.toInt * b.toInt ≤ 2 ^ 62 := BitVec.toInt_mul_toInt_le
  exact BitVec.toInt_ofInt_eq_self (by decide) (by omega) (by omega)

/-- No unsigned product leaves 64 bits (45_muldiv R236). -/
theorem toNat_productUnsigned (a b : Word) : (productUnsigned a b).toNat = a.toNat * b.toNat := by
  have fits : a.toNat * b.toNat < 2 ^ 32 * 2 ^ 32 := Nat.mul_lt_mul'' a.isLt b.isLt
  exact Nat.mod_eq_of_lt fits

/-! ## Division away from the corner cases -/

/-- The wrapped quotient is the library's signed division, which truncates toward zero. -/
theorem ofInt_tdiv_eq_sdiv (n d : Word) : BitVec.ofInt 32 (n.toInt.tdiv d.toInt) = n.sdiv d := by
  rw [← BitVec.toInt_inj, BitVec.toInt_sdiv, BitVec.toInt_ofInt]

/-- LO after DIV is the truncated quotient: only INT_MIN by -1 has one that needs 33 bits (45_muldiv R237). -/
theorem toInt_quotientSigned {n d : Word} (nonzero : d ≠ 0) (fits : ¬(n = 0x80000000 ∧ d = 0xFFFFFFFF)) :
    (quotientSigned n d).toInt = n.toInt.tdiv d.toInt := by
  rw [quotientSigned, if_neg nonzero, if_neg fits, ofInt_tdiv_eq_sdiv]
  exact BitVec.toInt_sdiv_of_ne_or_ne n d (not_and_or.1 fits)

/-- HI after DIV is the remainder of the truncated division (45_muldiv R237). -/
theorem toInt_remainderSigned {n d : Word} (nonzero : d ≠ 0) (fits : ¬(n = 0x80000000 ∧ d = 0xFFFFFFFF)) :
    (remainderSigned n d).toInt = n.toInt.tmod d.toInt := by
  rw [remainderSigned, if_neg nonzero, if_neg fits, ← Int.tmod_def, ← BitVec.toInt_srem, BitVec.ofInt_toInt]

/-- LO after DIVU is the quotient (45_muldiv R238). -/
theorem toNat_quotientUnsigned {n d : Word} (nonzero : d ≠ 0) : (quotientUnsigned n d).toNat = n.toNat / d.toNat := by
  rw [quotientUnsigned, if_neg nonzero]
  exact Nat.mod_eq_of_lt ((Nat.div_le_self _ _).trans_lt n.isLt)

/-- HI after DIVU is the remainder (45_muldiv R238). -/
theorem toNat_remainderUnsigned {n d : Word} (nonzero : d ≠ 0) : (remainderUnsigned n d).toNat = n.toNat % d.toNat := by
  rw [remainderUnsigned, if_neg nonzero]
  exact Nat.mod_eq_of_lt ((Nat.mod_le _ _).trans_lt n.isLt)

/-- A remainder other than 0 of the truncated division has the dividend's sign. -/
theorem tmod_neg_iff {a b : Int} (inexact : a.tmod b ≠ 0) : a.tmod b < 0 ↔ a < 0 := by
  rw [← Int.sign_eq_neg_one_iff_neg, Int.sign_tmod, if_neg fun divides => inexact (Int.tmod_eq_zero_of_dvd divides),
    Int.sign_eq_neg_one_iff_neg]

/-! ## What the divisions leave in HI and LO -/

/-- DIV, with its two corner cases first (45_muldiv R237). -/
theorem divisionSigned_spec (n d : Word) :
    if d = 0 then remainderSigned n d = n ∧ quotientSigned n d = (if 0 ≤ n.toInt then 0xFFFFFFFF else 1)
    else if n = 0x80000000 ∧ d = 0xFFFFFFFF then remainderSigned n d = 0 ∧ quotientSigned n d = 0x80000000
    else (quotientSigned n d).toInt * d.toInt + (remainderSigned n d).toInt = n.toInt ∧
      (remainderSigned n d).toInt.natAbs < d.toInt.natAbs ∧
      (remainderSigned n d ≠ 0 → ((remainderSigned n d).toInt < 0 ↔ n.toInt < 0)) := by
  split
  next zero => exact ⟨if_pos zero, if_pos zero⟩
  next nonzero =>
    split
    next corner =>
      rw [remainderSigned, quotientSigned, if_neg nonzero, if_neg nonzero]
      exact ⟨if_pos corner, if_pos corner⟩
    next fits =>
      have divisor : d.toInt ≠ 0 := fun h => nonzero (BitVec.toInt_inj.1 h)
      rw [← BitVec.toInt_inj.ne, toInt_quotientSigned nonzero fits, toInt_remainderSigned nonzero fits]
      refine ⟨Int.tdiv_mul_add_tmod _ _, ?_, tmod_neg_iff⟩
      rw [Int.natAbs_tmod]
      exact Nat.mod_lt _ (Int.natAbs_pos.2 divisor)

/-- DIVU, with a divisor of 0 first (45_muldiv R238). -/
theorem divisionUnsigned_spec (n d : Word) :
    if d = 0 then remainderUnsigned n d = n ∧ quotientUnsigned n d = 0xFFFFFFFF
    else (quotientUnsigned n d).toNat * d.toNat + (remainderUnsigned n d).toNat = n.toNat ∧
      (remainderUnsigned n d).toNat < d.toNat := by
  split
  next zero => exact ⟨if_pos zero, if_pos zero⟩
  next nonzero =>
    have divisor : d.toNat ≠ 0 := fun h => nonzero (BitVec.eq_of_toNat_eq h)
    rw [toNat_quotientUnsigned nonzero, toNat_remainderUnsigned nonzero]
    exact ⟨Nat.div_add_mod' _ _, Nat.mod_lt _ (Nat.pos_of_ne_zero divisor)⟩

/-! ## The eight instructions -/

/-- MULT cuts the signed product into HI and LO (45_muldiv R235). -/
theorem exec_mult (s : State) (rs rt : Reg) :
    exec (.mult rs rt) s = .next (s.writeHiLo ((productSigned (s.x rs) (s.x rt)).extractLsb' 32 32)
      ((productSigned (s.x rs) (s.x rt)).extractLsb' 0 32)) := rfl

/-- MULTU cuts the unsigned product into HI and LO (45_muldiv R236). -/
theorem exec_multu (s : State) (rs rt : Reg) :
    exec (.multu rs rt) s = .next (s.writeHiLo ((productUnsigned (s.x rs) (s.x rt)).extractLsb' 32 32)
      ((productUnsigned (s.x rs) (s.x rt)).extractLsb' 0 32)) := rfl

/-- DIV writes remainder and quotient (45_muldiv R237). -/
theorem exec_div (s : State) (rs rt : Reg) :
    exec (.div rs rt) s =
      .next (s.writeHiLo (remainderSigned (s.x rs) (s.x rt)) (quotientSigned (s.x rs) (s.x rt))) := rfl

/-- DIVU writes remainder and quotient (45_muldiv R238). -/
theorem exec_divu (s : State) (rs rt : Reg) :
    exec (.divu rs rt) s =
      .next (s.writeHiLo (remainderUnsigned (s.x rs) (s.x rt)) (quotientUnsigned (s.x rs) (s.x rt))) := rfl

/-- MFHI (45_muldiv R239). -/
theorem exec_mfhi (s : State) (rd : Reg) : exec (.mfhi rd) s = .next (s.writeResult rd s.hi) := rfl

/-- MFLO (45_muldiv R240). -/
theorem exec_mflo (s : State) (rd : Reg) : exec (.mflo rd) s = .next (s.writeResult rd s.lo) := rfl

/-- MTHI keeps LO (45_muldiv R241). -/
theorem exec_mthi (s : State) (rs : Reg) : exec (.mthi rs) s = .next (s.writeHiLo (s.x rs) s.lo) := rfl

/-- MTLO keeps HI (45_muldiv R242). -/
theorem exec_mtlo (s : State) (rs : Reg) : exec (.mtlo rs) s = .next (s.writeHiLo s.hi (s.x rs)) := rfl

/-- Settles O8: neither product leaves 64 bits, and HI and LO are its halves. -/
theorem productsAreExact : Obligations.ProductsAreExact := by
  unfold Obligations.ProductsAreExact
  refine ⟨fun w op => ⟨fun funct => ?_, fun funct => ?_⟩, fun s rs rt =>
    ⟨⟨_, exec_mult s rs rt, drained_writeHiLo s _ _, (halves_toInt _).trans (toInt_productSigned _ _)⟩,
      ⟨_, exec_multu s rs rt, drained_writeHiLo s _ _, (halves_toNat _).trans (toNat_productUnsigned _ _)⟩⟩⟩
  all_goals simp only [decode_special op, decodeSpecial, fieldFunct, funct, fieldRs, fieldRt, BitVec.ofNat_eq_ofNat]

/-- Settles O9: truncated division with its corner cases, signed and unsigned. -/
theorem divisionsWriteQuotientAndRemainder : Obligations.DivisionsWriteQuotientAndRemainder := by
  unfold Obligations.DivisionsWriteQuotientAndRemainder
  refine ⟨fun w op => ⟨fun funct => ?_, fun funct => ?_⟩, fun s rs rt =>
    ⟨⟨_, exec_div s rs rt, drained_writeHiLo s _ _, divisionSigned_spec _ _⟩,
      ⟨_, exec_divu s rs rt, drained_writeHiLo s _ _, divisionUnsigned_spec _ _⟩⟩⟩
  all_goals simp only [decode_special op, decodeSpecial, fieldFunct, funct, fieldRs, fieldRt, BitVec.ofNat_eq_ofNat]

/-- Settles O10: MFHI and MFLO are `writeResult` of HI and LO, MTHI and MTLO `writeHiLo` with the other of the two kept. -/
theorem hiLoMoves : Obligations.HiLoMoves := by
  unfold Obligations.HiLoMoves
  refine ⟨fun w op => ⟨fun funct => ?_, fun funct => ?_, fun funct => ?_, fun funct => ?_⟩, fun s r =>
    ⟨wrote_of_exec (exec_mfhi s r), wrote_of_exec (exec_mflo s r), ⟨_, exec_mthi s r, drained_writeHiLo s _ _⟩,
      ⟨_, exec_mtlo s r, drained_writeHiLo s _ _⟩⟩⟩
  all_goals simp only [decode_special op, decodeSpecial, fieldFunct, funct, fieldRs, fieldRd, BitVec.ofNat_eq_ofNat]

end Machine
end Sys2Proof
end

section
/-! Jumps and branches: the target in plain arithmetic, and the link, which the instruction reads before it writes `next_pc`
(46_jump_branch). -/

namespace Sys2Proof
namespace Machine

open Safety

/-! ## The four jumps -/

/-- J keeps the top four bits of the delay slot's address (46_jump_branch R250). -/
theorem exec_j (s : State) (target : BitVec 26) :
    exec (.j target) s = .next (s.jumpTo ((s.pc &&& 0xF0000000) ||| BitVec.ofNat 32 (4 * target.toNat))) := by
  rw [← jumpTarget_eq]; rfl

/-- JAL goes where J goes, and links in register 31 (46_jump_branch R251). -/
theorem exec_jal (s : State) (target : BitVec 26) :
    exec (.jal target) s =
      .next ((s.jumpTo ((s.pc &&& 0xF0000000) ||| BitVec.ofNat 32 (4 * target.toNat))).setReg 31 s.nextPc) := by
  rw [← jumpTarget_eq]; rfl

/-- JR (46_jump_branch R252). -/
theorem exec_jr (s : State) (rs : Reg) : exec (.jr rs) s = .next (s.jumpTo (s.x rs)) := rfl

/-- JALR reads its target before it writes the link, also with `rd` = `rs` (46_jump_branch R253). -/
theorem exec_jalr (s : State) (rd rs : Reg) :
    exec (.jalr rd rs) s = .next ((s.jumpTo (s.x rs)).setReg rd s.nextPc) := rfl

/-- Settles O15: `op` and `funct` select the row of the decoder, and each jump is `jumpTo` its target, two of them with a link. -/
theorem jumpsWriteNextPcAndLink : Obligations.JumpsWriteNextPcAndLink := by
  unfold Obligations.JumpsWriteNextPcAndLink
  refine ⟨fun w => ⟨fun op => ?_, fun op => ?_, fun op funct => ?_, fun op funct => ?_⟩, fun s target rd rs =>
    ⟨⟨_, exec_j s target, drained_jumpTo s _⟩, ⟨_, exec_jal s target, wrote_jumpTo_setReg s _ 31 s.nextPc⟩,
      ⟨_, exec_jr s rs, drained_jumpTo s _⟩, ⟨_, exec_jalr s rd rs, wrote_jumpTo_setReg s _ rd s.nextPc⟩⟩⟩
  · simp only [decode, fieldOp, op, fieldTarget26, BitVec.ofNat_eq_ofNat]
  · simp only [decode, fieldOp, op, fieldTarget26, BitVec.ofNat_eq_ofNat]
  · simp only [decode_special op, decodeSpecial, fieldFunct, funct, fieldRs, BitVec.ofNat_eq_ofNat]
  · simp only [decode_special op, decodeSpecial, fieldFunct, funct, fieldRs, fieldRd, BitVec.ofNat_eq_ofNat]

/-! ## What a branch answers -/

/-- A branch on a proposition about its operands: the drain, and the target in plain arithmetic when the proposition holds
(46_jump_branch R255). -/
theorem drained_of_branch {i : Instr} {s : State} {offset : Half} {condition : Prop} [Decidable condition]
    (answered : exec i s = .next (s.branchIf (decide condition) (s.branchTarget offset))) :
    ∃ t, exec i s = .next t ∧
      drained s s.hi s.lo (if condition then s.pc + BitVec.ofInt 32 (4 * offset.toInt) else s.nextPc) t := by
  have frame := drained_branchIf s (decide condition) (s.branchTarget offset)
  simp only [decide_eq_true_eq] at frame
  rw [← branchTarget_eq]
  exact ⟨_, answered, frame⟩

/-- A branch that links register 31 whether or not it is taken (46_jump_branch R262, R263). -/
theorem wrote_of_branch {i : Instr} {s : State} {offset : Half} {condition : Prop} [Decidable condition]
    (answered : exec i s = .next ((s.branchIf (decide condition) (s.branchTarget offset)).setReg 31 s.nextPc)) :
    ∃ t, exec i s = .next t ∧
      wrote s 31 s.nextPc s.hi s.lo (if condition then s.pc + BitVec.ofInt 32 (4 * offset.toInt) else s.nextPc) t := by
  have frame := wrote_branchIf_setReg s (decide condition) (s.branchTarget offset) 31 s.nextPc
  simp only [decide_eq_true_eq] at frame
  rw [← branchTarget_eq]
  exact ⟨_, answered, frame⟩

/-! ## The eight branches -/

/-- BEQ (46_jump_branch R256). -/
theorem exec_beq (s : State) (rs rt : Reg) (offset : Half) :
    exec (.beq rs rt offset) s = .next (s.branchIf (decide (s.x rs = s.x rt)) (s.branchTarget offset)) := rfl

/-- BNE (46_jump_branch R257). -/
theorem exec_bne (s : State) (rs rt : Reg) (offset : Half) :
    exec (.bne rs rt offset) s = .next (s.branchIf (decide (s.x rs ≠ s.x rt)) (s.branchTarget offset)) := by
  rw [decide_not]; rfl

/-- BLEZ compares as a signed number (46_jump_branch R258). -/
theorem exec_blez (s : State) (rs : Reg) (offset : Half) :
    exec (.blez rs offset) s = .next (s.branchIf (decide ((s.x rs).toInt ≤ 0)) (s.branchTarget offset)) := rfl

/-- BGTZ compares as a signed number (46_jump_branch R259). -/
theorem exec_bgtz (s : State) (rs : Reg) (offset : Half) :
    exec (.bgtz rs offset) s = .next (s.branchIf (decide (0 < (s.x rs).toInt)) (s.branchTarget offset)) := rfl

/-- BLTZ compares as a signed number (46_jump_branch R260). -/
theorem exec_bltz (s : State) (rs : Reg) (offset : Half) :
    exec (.bltz rs offset) s = .next (s.branchIf (decide ((s.x rs).toInt < 0)) (s.branchTarget offset)) := rfl

/-- BGEZ compares as a signed number (46_jump_branch R261). -/
theorem exec_bgez (s : State) (rs : Reg) (offset : Half) :
    exec (.bgez rs offset) s = .next (s.branchIf (decide (0 ≤ (s.x rs).toInt)) (s.branchTarget offset)) := rfl

/-- BLTZAL reads its condition before it writes the link, also with `rs` = 31 (46_jump_branch R262). -/
theorem exec_bltzal (s : State) (rs : Reg) (offset : Half) :
    exec (.bltzal rs offset) s =
      .next ((s.branchIf (decide ((s.x rs).toInt < 0)) (s.branchTarget offset)).setReg 31 s.nextPc) := rfl

/-- BGEZAL reads its condition before it writes the link, also with `rs` = 31 (46_jump_branch R263). -/
theorem exec_bgezal (s : State) (rs : Reg) (offset : Half) :
    exec (.bgezal rs offset) s =
      .next ((s.branchIf (decide (0 ≤ (s.x rs).toInt)) (s.branchTarget offset)).setReg 31 s.nextPc) := rfl

/-- Settles O16: `op`, and `rt` for `op` = 0x01, select the row of the decoder, and each branch is `branchIf` of its condition on
the operand view, two of them with a link. BNE's condition is BEQ's negated. -/
theorem branchesWriteNextPcWhenTaken : Obligations.BranchesWriteNextPcWhenTaken := by
  unfold Obligations.BranchesWriteNextPcWhenTaken
  refine ⟨fun w => ⟨fun op => ?_, fun op => ?_, fun op => ?_, fun op => ?_, fun op rt => ?_, fun op rt => ?_,
    fun op rt => ?_, fun op rt => ?_⟩, fun s rs rt offset => ⟨drained_of_branch (exec_beq s rs rt offset), ?bne,
      drained_of_branch (exec_blez s rs offset), drained_of_branch (exec_bgtz s rs offset),
      drained_of_branch (exec_bltz s rs offset), drained_of_branch (exec_bgez s rs offset),
      wrote_of_branch (exec_bltzal s rs offset), wrote_of_branch (exec_bgezal s rs offset)⟩⟩
  case bne =>
    have frame := drained_of_branch (exec_bne s rs rt offset)
    rwa [ite_not] at frame
  iterate 4 · simp only [decode, fieldOp, op, fieldRs, fieldRt, fieldImm16, BitVec.ofNat_eq_ofNat]
  iterate 4 · simp only [decode_regimm op, decodeRegimm, fieldRt, rt, fieldRs, fieldImm16, BitVec.ofNat_eq_ofNat]

end Machine
end Sys2Proof
end

section
/-! SYSCALL and BREAK, the moves from and to COP0, and the return from an exception (47_system_cop0). -/

namespace Sys2Proof
namespace Machine

open Safety

/-! ## SYSCALL and BREAK -/

/-- SYSCALL (47_system_cop0 R270). -/
theorem exec_syscall (s : State) : exec .syscall s = .next (s.raise .syscall) := rfl

/-- BREAK (47_system_cop0 R271). -/
theorem exec_brk (s : State) : exec .brk s = .next (s.raise .breakpoint) := rfl

/-- Settles O17: `funct` alone selects the row of the decoder, and both answer `raise`, with code 8 or 9. -/
theorem syscallAndBreakTakeTheirException : Obligations.SyscallAndBreakTakeTheirException := by
  unfold Obligations.SyscallAndBreakTakeTheirException
  refine ⟨fun w op => ⟨fun funct => ?_, fun funct => ?_⟩, fun s =>
    ⟨⟨_, exec_syscall s, tookException_raise s .syscall⟩, ⟨_, exec_brk s, tookException_raise s .breakpoint⟩⟩⟩
  all_goals simp only [decode_special op, decodeSpecial, fieldFunct, funct, BitVec.ofNat_eq_ofNat]

/-! ## What reading COP0 leaves, and what MFC0 delivers -/

/-- A free value drawn for an unnamed number changes no operand. -/
theorem x_cop0Read (s : State) (n : Nat) (r : Reg) : (s.cop0Read n).2.x r = s.x r := by
  rw [cop0Read_eq]; rfl

theorem params_cop0Read (s : State) (n : Nat) : (s.cop0Read n).2.params = s.params := by
  rw [cop0Read_eq]

theorem landedReg_cop0Read (s : State) (n : Nat) (r : Reg) : landedReg (s.cop0Read n).2 r = landedReg s r := by
  rw [cop0Read_eq]; rfl

/-- MFC0 is a delayed load or a result write of the register it names (47_system_cop0 R272). -/
theorem exec_mfc0 (s : State) (rt : Reg) (n : Nat) :
    exec (.mfc0 rt n) s =
      .next (if s.params.mfc0Delayed then (s.cop0Read n).2.delayedLoad rt (s.cop0Read n).1
        else (s.cop0Read n).2.writeResult rt (s.cop0Read n).1) := rfl

/-- The delayed form of MFC0 lands on the registers as they were before the COP0 read. -/
theorem loadDelayed_cop0Read (s : State) (rt : Reg) (n : Nat) (v : Word) :
    loadDelayed s rt v ((s.cop0Read n).2.delayedLoad rt v) := by
  obtain ⟨slot, registers⟩ := State.loadDelayed_delayedLoad (s.cop0Read n).2 rt v
  refine ⟨slot, fun r => ?_⟩
  rw [registers, params_cop0Read, x_cop0Read, landedReg_cop0Read]

/-- The immediate form of MFC0 empties the slot and writes over the landing. -/
theorem writeResult_cop0Read (s : State) (rt : Reg) (n : Nat) (v : Word) :
    ((s.cop0Read n).2.writeResult rt v).pending = { index := 0, value := 0 } ∧
      ∀ r, ((s.cop0Read n).2.writeResult rt v).x r = if r = 0 then 0 else if r = rt then v else landedReg s r := by
  obtain ⟨registers, frame, -⟩ := wrote_writeResult (s.cop0Read n).2 rt v
  refine ⟨by rw [frame], fun r => ?_⟩
  rw [registers, landedReg_cop0Read]

/-- MFC0 writes none of the three stores. -/
theorem memorySame_mfc0 {s t : State} {rt : Reg} {n : Nat} (h : exec (.mfc0 rt n) s = .next t) : memorySame s t := by
  rw [execMfc0_eq h]
  exact memorySame_of_eq rfl rfl rfl

/-- Settles O18: `rs` selects the row of the decoder; the value is what the COP0 read gives, and the parameter selects the form
that delivers it. -/
theorem moveFromCop0 : Obligations.MoveFromCop0 := by
  unfold Obligations.MoveFromCop0
  refine ⟨fun w op rs => ?words, fun s rt n _ => ⟨_, (s.cop0Read n).1, exec_mfc0 s rt n, ?badVaddr, ?sr, ?cause, ?epc,
    ?delivered, memorySame_mfc0 (exec_mfc0 s rt n), execMfc0_eq (exec_mfc0 s rt n)⟩⟩
  case words => simp only [decode_cop0 op, decodeCop0, fieldRs, rs, fieldRt, fieldRd, BitVec.ofNat_eq_ofNat]
  case badVaddr | sr | cause | epc => rintro rfl; rfl
  case delivered =>
    split
    case isTrue delayed => exact loadDelayed_cop0Read s rt n _
    case isFalse atOnce => exact writeResult_cop0Read s rt n _

/-! ## MTC0 -/

/-- The two software interrupt bits of CAUSE, as masks (47_system_cop0 R273). -/
theorem setField_software_bits (c v : Word) :
    setField c 8 (v.extractLsb' 8 2) = (c &&& 0xFFFFFCFF) ||| (v &&& 0x00000300) := by
  apply BitVec.eq_of_getLsbD_eq
  intro i hi
  rw [getLsbD_setField _ _ _ (by decide)]
  interval_cases i <;> simp

theorem sr_cop0Write (s : State) (n : Nat) (v : Word) : (s.cop0Write n v).sr = if n = 12 then v else s.sr := by
  unfold State.cop0Write
  split
  case h_1 => rfl
  case h_2 => rfl
  case h_3 not_sr not_cause => rw [if_neg not_sr]

theorem cause_cop0Write (s : State) (n : Nat) (v : Word) :
    (s.cop0Write n v).cause = if n = 13 then (s.cause &&& 0xFFFFFCFF) ||| (v &&& 0x00000300) else s.cause := by
  unfold State.cop0Write
  split
  case h_1 => rfl
  case h_2 => exact setField_software_bits s.cause v
  case h_3 not_sr not_cause => rw [if_neg not_cause]

/-- MTC0 writes COP0 after the drain (47_system_cop0 R273). -/
theorem exec_mtc0 (s : State) (rt : Reg) (n : Nat) : exec (.mtc0 rt n) s = .next (s.land.cop0Write n (s.x rt)) := rfl

/-- Settles O19: the write changes SR and CAUSE at most, whose new values are those of `sr_cop0Write` and `cause_cop0Write`. -/
theorem moveToCop0 : Obligations.MoveToCop0 := by
  unfold Obligations.MoveToCop0
  refine ⟨fun w op rs => ?words, fun s rt n _ => ⟨_, exec_mtc0 s rt n, ?written⟩⟩
  case words => simp only [decode_cop0 op, decodeCop0, fieldRs, rs, fieldRt, fieldRd, BitVec.ofNat_eq_ofNat]
  case written =>
    have written := wroteCop0_cop0Write s n (s.x rt)
    rwa [sr_cop0Write, cause_cop0Write, State.land_sr, State.land_cause] at written

/-! ## RFE -/

/-- RFE (47_system_cop0 R274). -/
theorem exec_rfe (s : State) : exec .rfe s = .next s.returnFromException := rfl

/-- Settles O20: `rs` and `funct` select the row of the decoder, and the popped SR is `popStatus_eq`. -/
theorem returnFromExceptionPopsTheStack : Obligations.ReturnFromExceptionPopsTheStack := by
  unfold Obligations.ReturnFromExceptionPopsTheStack
  refine ⟨fun w op rs funct => ?words, fun s => ⟨_, exec_rfe s, ?popped⟩⟩
  case words =>
    simp only [decode_cop0 op, decodeCop0, fieldRs, rs, fieldFunct, funct, BitVec.ofNat_eq_ofNat, if_true]
  case popped =>
    rw [← popStatus_eq]
    exact wroteCop0_returnFromException s

end Machine
end Sys2Proof
end

section
/-! Exception entry and return, and the interrupt controller's two registers (60_exceptions). -/

namespace Sys2Proof
namespace Machine

open Safety

/-! ## Fields read off bit by bit -/

/-- A field is known when its bits are. -/
theorem extractLsb'_eq_of_bits {w : Word} {lo len : Nat} {v : BitVec len}
    (bits : ∀ i, i < len → w.getLsbD (lo + i) = v.getLsbD i) : w.extractLsb' lo len = v := by
  apply BitVec.eq_of_getLsbD_eq
  intro i hi
  rw [BitVec.getLsbD_extractLsb', decide_eq_true hi, Bool.true_and, bits i hi]

/-- A field that two words agree on. -/
theorem extractLsb'_congr {w u : Word} {lo len : Nat} (bits : ∀ i, lo ≤ i → i < lo + len → w.getLsbD i = u.getLsbD i) :
    w.extractLsb' lo len = u.extractLsb' lo len := by
  refine extractLsb'_eq_of_bits fun i hi => ?_
  rw [BitVec.getLsbD_extractLsb', decide_eq_true hi, Bool.true_and, bits _ (by omega) (by omega)]

/-! ## Exception entry -/

/-- The stack of SR after an entry: the pairs moved up, the lowest cleared (60_exceptions R303). -/
theorem pushStatus_stack (sr : Word) : (pushStatus sr).extractLsb' 0 6 = sr.extractLsb' 0 4 ++ 0#2 := by
  refine extractLsb'_eq_of_bits fun i hi => ?_
  rw [getLsbD_pushStatus _ _ (by omega), if_pos (by omega), BitVec.getLsbD_append]
  interval_cases i <;> simp

/-- CAUSE names the exception after an entry (60_exceptions R300). -/
theorem recordCause_code (c : Word) (code : BitVec 5) (bd : Bool) (ce : BitVec 2) :
    (recordCause c code bd ce).extractLsb' 2 5 = code := by
  refine extractLsb'_eq_of_bits fun i hi => ?_
  rw [getLsbD_recordCause, if_neg (by omega), if_neg (by omega), if_pos (by omega), Nat.add_sub_cancel_left]

/-- CAUSE names the coprocessor after an entry (60_exceptions R300). -/
theorem recordCause_ce (c : Word) (code : BitVec 5) (bd : Bool) (ce : BitVec 2) :
    (recordCause c code bd ce).extractLsb' 28 2 = ce := by
  refine extractLsb'_eq_of_bits fun i hi => ?_
  rw [getLsbD_recordCause, if_pos (by omega), Nat.add_sub_cancel_left]

/-- The bits of CAUSE that an entry keeps (60_exceptions R300). -/
theorem recordCause_kept (c : Word) (code : BitVec 5) (bd : Bool) (ce : BitVec 2) :
    recordCause c code bd ce &&& 0x4FFFFF83 = c &&& 0x4FFFFF83 := by
  apply BitVec.eq_of_getLsbD_eq
  intro i hi
  rw [BitVec.getLsbD_and, getLsbD_recordCause, BitVec.getLsbD_and]
  interval_cases i <;> simp

/-- RFE after an entry gives every bit of SR back but the pair in bits 5:4. -/
theorem getLsbD_popStatus_pushStatus (sr : Word) (i : Nat) (hi : i < 32) (restored : i < 4 ∨ 6 ≤ i) :
    (popStatus (pushStatus sr)).getLsbD i = sr.getLsbD i := by
  rw [getLsbD_popStatus _ _ hi]
  split
  case isTrue low => rw [getLsbD_pushStatus _ _ (by omega), if_pos (by omega), if_pos (by omega), Nat.add_sub_cancel]
  case isFalse high => rw [getLsbD_pushStatus _ _ hi, if_neg (by omega)]

/-- Two entries move the current pair up by two places. -/
theorem pushStatus_pushStatus_oldest (sr : Word) :
    (pushStatus (pushStatus sr)).extractLsb' 4 2 = sr.extractLsb' 0 2 := by
  refine extractLsb'_eq_of_bits fun i hi => ?_
  rw [getLsbD_pushStatus _ _ (by omega), if_pos (by omega), if_pos (by omega), getLsbD_pushStatus _ _ (by omega),
    if_pos (by omega), if_pos (by omega), BitVec.getLsbD_extractLsb', decide_eq_true hi, Bool.true_and]
  congr 1
  omega

/-- Settles O30: SR, CAUSE and SR's way back through RFE are read off bit by bit, the rest is the record update of the entry. -/
theorem exceptionEntry : Obligations.ExceptionEntry := by
  unfold Obligations.ExceptionEntry
  intro s e victim follower ce t bd
  have slot : inDelaySlot victim follower = bd := Bool.eq_iff_iff.2 (by simp [bd, inDelaySlot])
  have sr : t.sr = pushStatus s.sr := rfl
  have cause : t.cause = recordCause s.cause e.code bd ce := by rw [← slot]; rfl
  have epc : t.epc = if bd then victim - 4 else victim := by rw [← slot]; rfl
  refine ⟨?stack, ?status, ?code, ?bd, ?ce, ?causeKept, epc, rfl, rfl, rfl, ?popped, ?poppedStatus,
    fun _ _ _ _ => pushStatus_pushStatus_oldest s.sr⟩
  case stack => rw [sr, pushStatus_stack]
  case status =>
    rw [sr]
    exact extractLsb'_congr fun i low high => by rw [getLsbD_pushStatus _ _ (by omega), if_neg (by omega)]
  case code => rw [cause, recordCause_code]
  case bd => rw [cause, getLsbD_recordCause]; rfl
  case ce => rw [cause, recordCause_ce]
  case causeKept => rw [cause, recordCause_kept]
  case popped | poppedStatus =>
    rw [sr]
    exact extractLsb'_congr fun i low high => getLsbD_popStatus_pushStatus _ _ (by omega) (by omega)

/-! ## The interrupt controller's registers -/

/-- I_STAT is the word at 0x1F801070 (20_memory R82). -/
theorem deviceAt_iStat : deviceAt (Machine.translate 0x1F801070) = some (.iStat, 0) := by decide

/-- The half-word above I_STAT. -/
theorem deviceAt_iStat_upper : deviceAt (Machine.translate 0x1F801072) = some (.iStat, 2) := by decide

/-- I_MASK is the word at 0x1F801074 (20_memory R82). -/
theorem deviceAt_iMask : deviceAt (Machine.translate 0x1F801074) = some (.iMask, 0) := by decide

/-- The half-word above I_MASK. -/
theorem deviceAt_iMask_upper : deviceAt (Machine.translate 0x1F801076) = some (.iMask, 2) := by decide

/-- At 16 and 32 bits a write reaches the register at its own address, and a read shows it zero-extended (60_exceptions R311). -/
theorem irqRegister_wide {n : Width} (wide : n ≠ .byte) (r : BitVec 11) :
    irqRegisterWritten 0 n = true ∧ irqRegisterRead r 0 n = r.setWidth 32 := by
  cases n with
  | byte => exact absurd rfl wide
  | half | word => exact ⟨rfl, rfl⟩

/-- A request sets the bit of its line and no other (60_exceptions R312). -/
theorem getLsbD_requestIrq (s : State) {line : Nat} (inside : line ≤ 10) (k : Nat) :
    (s.requestIrq line).iStat.getLsbD k = (decide (k = line) || s.iStat.getLsbD k) := by
  have bit : ((1#11) <<< line).getLsbD k = decide (k = line) := by
    rw [BitVec.getLsbD_shiftLeft, BitVec.getLsbD_one, Bool.eq_iff_iff]
    simp only [Bool.and_eq_true, Bool.not_eq_true', decide_eq_true_eq, decide_eq_false_iff_not]
    omega
  rw [State.requestIrq_iStat, BitVec.getLsbD_or, bit, Bool.or_comm]

/-- Settles O34: both registers stand alone in the device map, whose rows send each access to `irqRegisterWritten` and
`irqRegisterRead`. -/
theorem interruptRegistersAcknowledgeAndMask : Obligations.InterruptRegistersAcknowledgeAndMask := by
  unfold Obligations.InterruptRegistersAcknowledgeAndMask
  intro s v n line shared wide inside
  have low : v.setWidth 11 = v.extractLsb' 0 11 := BitVec.eq_of_toNat_eq rfl
  refine ⟨?acknowledge, ?mask, ?readStat, ?readMask, ?dropStat, ?zeroStat, ?dropMask, ?zeroMask, rfl, ?set, ?others⟩
  case acknowledge =>
    rw [memWrite_device s shared deviceAt_iStat, low]
    simp only [State.deviceWrite, (irqRegister_wide wide s.iStat).1]
    rfl
  case mask =>
    rw [memWrite_device s shared deviceAt_iMask, low]
    simp only [State.deviceWrite, (irqRegister_wide wide s.iStat).1]
    rfl
  case readStat => rw [memRead_device s deviceAt_iStat]; simp only [State.deviceRead, (irqRegister_wide wide s.iStat).2]
  case readMask => rw [memRead_device s deviceAt_iMask]; simp only [State.deviceRead, (irqRegister_wide wide s.iMask).2]
  case dropStat => exact memWrite_device s shared deviceAt_iStat_upper .half v
  case zeroStat => exact memRead_device s deviceAt_iStat_upper .half
  case dropMask => exact memWrite_device s shared deviceAt_iMask_upper .half v
  case zeroMask => exact memRead_device s deviceAt_iMask_upper .half
  case set => rw [getLsbD_requestIrq s inside, decide_eq_true rfl, Bool.true_or]
  case others => intro k other; rw [getLsbD_requestIrq s inside, decide_eq_false other, Bool.false_or]

end Machine
end Sys2Proof
end

section
/-! The DMA controller: stores to CHCR, the ordering table, linked lists, and DICR (61_dma). -/

namespace Sys2Proof
namespace Machine

open Safety

/-! ## What every step keeps -/

/-- Settles O58: the three conditions are `dmaOk`, which every device operation and so every step keeps. -/
theorem stepKeepsTheDmaInvariant : Obligations.StepKeepsTheDmaInvariant := by
  unfold Obligations.StepKeepsTheDmaInvariant
  intro s t inactive reserved master stepped
  have kept : dmaOk t.dma := kept_dma.step ⟨inactive, reserved, master⟩ stepped
  obtain ⟨inactive', reserved', master'⟩ := kept
  exact ⟨inactive', reserved', master'⟩

/-! ## Stores to CHCR -/

/-- Settles O35: an inactive value is stored and starts no transfer. -/
theorem inactiveChcrStoreOnlyWritesItsRegister : Obligations.InactiveChcrStoreOnlyWritesItsRegister := by
  unfold Obligations.InactiveChcrStoreOnlyWritesItsRegister
  intro s n v shared inactive
  have idle : chcrActive v = false := by rw [← Bool.not_eq_true, chcrActive_iff]; exact inactive
  have stored := dmaChannel_setDmaChannel s n { s.dmaChannel n with chcr := v }
  refine ⟨_, (memWrite_chcr s n v shared).trans (writeChcr_inactive s n idle), memorySame_of_eq rfl rfl rfl, rfl, ?_, ?_⟩
  · rw [stored, if_pos rfl]
  · intro m other
    rw [stored, if_neg other]

/-- A store that activates a channel is refused when the new value of CHCR is (61_dma R350, R356 to R358). -/
theorem memWrite_chcr_refused (s : State) (n : Fin 7) {v : Word} {r : Refusal} (shared : s.sr.getLsbD 16 = false)
    (active : chcrActive v = true) (refused : dmaRefusal n v = some r) :
    s.memWrite (BitVec.ofNat 32 (0x1F801088 + 16 * n)) .word v = .refused r := by
  rw [memWrite_chcr s n v shared, writeChcr_active s n active, dmaRun_refused (r := r)]
  · rfl
  · rw [dmaChannel_setDmaChannel, if_pos rfl]
    exact refused

/-- No device end for the direction (61_dma R357, R358). -/
theorem dmaRefusal_deviceEnd {n : Fin 7} {v : Word} (none : dmaHasDeviceEnd n (v.getLsbD 0) = false) :
    dmaRefusal n v = some (.dmaDeviceEnd n) := by
  unfold dmaRefusal chcrFromRam testBit
  rw [none]
  rfl

/-- The sync mode from its two bits (61_dma R343). -/
theorem chcrSync_eq_bits (v : Word) : chcrSync v = BitVec.ofBool (v.getLsbD 10) ++ BitVec.ofBool (v.getLsbD 9) := by
  apply BitVec.eq_of_getLsbD_eq
  intro i hi
  rw [chcrSync, BitVec.getLsbD_extractLsb', BitVec.getLsbD_append]
  interval_cases i <;> simp

/-- A sync mode with its upper bit set has a meaning only as the linked list of channel 2 from RAM (61_dma R356). -/
theorem dmaRefusal_syncMode {n : Fin 7} {v : Word} (deviceEnd : dmaHasDeviceEnd n (v.getLsbD 0) = true)
    (linked : v.getLsbD 10 = true) (elsewhere : v.getLsbD 9 = true ∨ ¬(n = 2 ∧ v.getLsbD 0 = true)) :
    dmaRefusal n v = some (.dmaSyncMode n) := by
  unfold dmaRefusal chcrFromRam testBit
  rw [deviceEnd, chcrSync_eq_bits, linked]
  cases low : v.getLsbD 9 with
  | true => rfl
  | false =>
    have other : ¬(n = 2 ∧ v.getLsbD 0 = true) := elsewhere.resolve_left (by rw [low]; exact Bool.false_ne_true)
    simpa using other

/-- Settles O36: each clause is one of the two reasons of `dmaRefusal`. -/
theorem meaninglessActivationsAreRefused : Obligations.MeaninglessActivationsAreRefused := by
  unfold Obligations.MeaninglessActivationsAreRefused
  intro s n v shared enabled started r
  have active : chcrActive v = true := (chcrActive_iff v).2 ⟨enabled, started⟩
  have refused {e : Refusal} (h : dmaRefusal n v = some e) : r = .refused e := memWrite_chcr_refused s n shared active h
  refine ⟨fun noEnd => refused (dmaRefusal_deviceEnd ?_), fun toRamOnly fromRam => refused (dmaRefusal_deviceEnd ?_),
    fun toRamOnly toRam linked => refused (dmaRefusal_syncMode ?_ linked (.inr ?_)),
    fun gpu linked elsewhere => refused (dmaRefusal_syncMode ?_ linked ?_)⟩
  · rcases noEnd with rfl | rfl | rfl | rfl <;> rfl
  · rw [fromRam]
    rcases toRamOnly with rfl | rfl <;> rfl
  · rw [toRam]
    rcases toRamOnly with rfl | rfl <;> rfl
  · rw [toRam]
    exact fun h => Bool.false_ne_true h.2
  · rw [gpu]; rfl
  · rcases elsewhere with toRam | both
    · exact .inr fun h => Bool.false_ne_true (toRam.symm.trans h.2)
    · exact .inl both

/-! ## Completion -/

/-- The channels after a completion (61_dma R360). -/
theorem dmaChannel_dmaComplete (s : State) (n m : Fin 7) :
    (s.dmaComplete n).dmaChannel m =
      if m = n then { s.dmaChannel n with chcr := (s.dmaChannel n).chcr &&& 0xEEFFFFFF } else s.dmaChannel m := by
  rw [dmaComplete_eq, dmaChannel_dmaUpdateMaster, dmaChannel_setDmaChannel, chcrDone_eq]

/-- A completion changes the DMA registers and I_STAT only. -/
theorem dmaComplete_frame (s : State) (n : Fin 7) :
    s.dmaComplete n = { s with dma := (s.dmaComplete n).dma, iStat := (s.dmaComplete n).iStat } := by
  rw [dmaComplete_eq, dmaUpdateMaster_eq]
  rfl

/-! ## The ordering table -/

/-- Words read alike when their bytes do. -/
theorem readBytes_congr {f g : Nat → Byte} {k n : Nat} (bytes : ∀ j, k ≤ j → j < k + n → f j = g j) :
    readBytes f k n = readBytes g k n := by
  induction n generalizing k with
  | zero => rfl
  | succ n ih =>
    rw [readBytes, readBytes, bytes k (by omega) (by omega), ih fun j low high => bytes j (by omega) (by omega)]

/-- A word of main RAM read back by the DMA controller (61_dma R352). -/
theorem dmaRamRead_ramWrite {s : State} (wf : s.ram.wf Config.ramSize = true) {a : Word}
    (inside : a.toNat + 4 ≤ Config.ramSize) (v : Word) : (s.ramWrite a.toNat 4 v).dmaRamRead a = v := by
  have bytes : ∀ i < 4, (s.ramWrite a.toNat 4 v).ramByte (a.toNat + i) = v.extractLsb' (8 * i) 8 := by
    intro i hi
    rw [State.ramByte_ramWrite s wf _ 4 v inside, if_pos (by omega), Nat.add_sub_cancel_left]
  have read := readBytes_of_wordBytes bytes 4 (i := 0) (by omega)
  have small : v.toNat / 2 ^ (8 * 0) % 2 ^ (8 * 4) = v.toNat := by have := v.isLt; omega
  rw [small, BitVec.ofNat_toNat, BitVec.setWidth_eq] at read
  exact read

/-- The address below an aligned one of main RAM (61_dma R352). -/
theorem toNat_dmaAddress_sub_four {a : Word} (inside : a.toNat < 2 ^ 24) (aligned : a.toNat % 4 = 0) (above : 4 ≤ a.toNat) :
    (dmaAddress (a - 4)).toNat = a.toNat - 4 := by
  have below : (a - 4).toNat = a.toNat - 4 := BitVec.toNat_sub_of_le (BitVec.le_def.2 above)
  rw [toNat_dmaAddress, below]
  omega

/-- The entry of an aligned address: the address below, or the end marker (61_dma R357). -/
theorem otcEntry_eq {a : Word} {left : Nat} (below : 0 < left → (dmaAddress (a - 4)).toNat = a.toNat - 4) :
    otcEntry a (left == 0) = if left = 0 then 0x00FFFFFF else BitVec.ofNat 32 (a.toNat - 4) := by
  by_cases last : left = 0
  · rw [if_pos last, last]; rfl
  · rw [if_neg last, otcEntry, if_neg (by simpa using last), ← below (by omega), BitVec.ofNat_toNat, BitVec.setWidth_eq]

/-- `t` differs from `s` at most in main RAM. -/
def ramOnly (s t : State) : Prop := t = { s with ram := t.ram }

theorem ramOnly_trans {s t u : State} (h : ramOnly s t) (k : ramOnly t u) : ramOnly s u := by
  unfold ramOnly at *; rw [k, h]

/-- `t` is `s` with an ordering table of `count` entries in main RAM, the first at offset `k` and each next one 4 below
(61_dma R357). -/
def tableBuilt (s : State) (k count : Nat) (t : State) : Prop :=
  (∀ i, i < count → t.dmaRamRead (BitVec.ofNat 32 (k - 4 * i)) =
      if i + 1 = count then 0x00FFFFFF else BitVec.ofNat 32 (k - 4 * (i + 1))) ∧
    (∀ j, ¬(k + 4 ≤ j + 4 * count ∧ j < k + 4) → t.ramByte j = s.ramByte j) ∧ ramOnly s t

/-- The moves of channel 6 build the table, one entry a move, from the top down (61_dma R353, R357). -/
theorem tableBuilt_dmaMoveToRam (count : Nat) {s : State} {a : Word} {k : Nat} (wf : s.ram.wf Config.ramSize = true)
    (start : 0 < count → a.toNat = k) (aligned : k % 4 = 0) (room : 4 * count ≤ k + 4) (inside : k + 4 ≤ Config.ramSize) :
    tableBuilt s k count (dmaMoveToRam 6 true count a s) := by
  induction count generalizing s a k with
  | zero => exact ⟨fun i hi => absurd hi (Nat.not_lt_zero i), fun j _ => rfl, rfl⟩
  | succ left ih =>
    obtain rfl := start (Nat.succ_pos left)
    have size : Config.ramSize = 0x200000 := rfl
    have next : 0 < left → (dmaStep true a).toNat = a.toNat - 4 := fun more =>
      toNat_dmaAddress_sub_four (by omega) aligned (by omega)
    let u := s.ramWrite a.toNat 4 (otcEntry a (left == 0))
    obtain ⟨entries, outside, frame⟩ := ih (s := u) (a := dmaStep true a) (State.wf_ramWrite s wf _ _ _) next (by omega)
      (by omega) (by omega)
    refine ⟨fun i hi => ?entry, fun j hj => ?outside, ?frame⟩
    case entry =>
      cases i with
      | zero =>
        have first : State.dmaRamRead (dmaMoveToRam 6 true left (dmaStep true a) u) a = otcEntry a (left == 0) :=
          (readBytes_congr fun j low high => outside j (by omega)).trans (dmaRamRead_ramWrite wf inside _)
        rw [Nat.mul_zero, Nat.sub_zero, BitVec.ofNat_toNat, BitVec.setWidth_eq]
        refine first.trans ((otcEntry_eq next).trans (if_congr (by omega) rfl rfl))
      | succ i =>
        have lower (i : Nat) : a.toNat - 4 * (i + 1) = a.toNat - 4 - 4 * i := by omega
        rw [lower, lower]
        exact (entries i (by omega)).trans (if_congr (by omega) rfl rfl)
    case outside =>
      refine (outside j (by omega)).trans ?_
      rw [State.ramByte_ramWrite s wf _ _ _ inside, if_neg (by omega)]
    case frame =>
      exact ramOnly_trans (State.ramWrite_eq s _ _ _) frame

/-- The store that starts a manual transfer of channel 6 downward moves its words and completes the channel (61_dma R350, R353,
R360). -/
theorem memWrite_otc (s : State) (shared : s.sr.getLsbD 16 = false) :
    s.memWrite 0x1F8010E8 .word 0x11000002 =
      .next ((dmaMoveToRam 6 true (manualCount (s.dmaChannel 6).bcr) (dmaAddress ((s.dmaChannel 6).madr.setWidth 32))
        (s.setDmaChannel 6 { s.dmaChannel 6 with chcr := 0x11000002 })).dmaComplete 6) := by
  generalize started : s.setDmaChannel 6 { s.dmaChannel 6 with chcr := 0x11000002 } = u
  have stored : u.dmaChannel 6 = { s.dmaChannel 6 with chcr := 0x11000002 } := by
    rw [← started, dmaChannel_setDmaChannel, if_pos rfl]
  have chcr : (u.dmaChannel 6).chcr = 0x11000002 := by rw [stored]
  have bcr : (u.dmaChannel 6).bcr = (s.dmaChannel 6).bcr := by rw [stored]
  have madr : (u.dmaChannel 6).madr = (s.dmaChannel 6).madr := by rw [stored]
  have store : s.memWrite 0x1F8010E8 .word 0x11000002 = s.writeChcr 6 0x11000002 := memWrite_chcr s 6 0x11000002 shared
  rw [store, writeChcr_active s 6 (by decide), started, dmaRun_manual u 6 (by rw [chcr]; decide) (by rw [chcr]; decide),
    dmaMove_toRam u 6 _ (by rw [chcr]; decide), andThen_next, chcr, bcr, madr]
  rfl

/-- Words of a manual transfer in plain arithmetic (61_dma R353). -/
theorem manualCount_eq (bcr : Word) :
    manualCount bcr = if bcr.toNat % 65536 = 0 then 65536 else bcr.toNat % 65536 := by
  have size : (bcr.extractLsb' 0 16).toNat = bcr.toNat % 65536 := by simp
  unfold manualCount
  rw [size]
  exact if_congr (by rw [← BitVec.toNat_inj, size]; rfl) rfl rfl

/-- Settles O37: the moves of the started transfer build the table, and its completion touches no memory. -/
theorem otcTransferBuildsTheTable : Obligations.OtcTransferBuildsTheTable := by
  unfold Obligations.OtcTransferBuildsTheTable
  intro s base count shared canonical atBase counted room inside
  have start : (dmaAddress ((s.dmaChannel 6).madr.setWidth 32)).toNat = base := by
    have := (s.dmaChannel 6).madr.isLt
    rw [toNat_dmaAddress, BitVec.toNat_setWidth]
    omega
  have positive : 0 < count := by split at counted <;> omega
  have stored := dmaChannel_setDmaChannel s 6 { s.dmaChannel 6 with chcr := 0x11000002 }
  have built := tableBuilt_dmaMoveToRam count (s := s.setDmaChannel 6 { s.dmaChannel 6 with chcr := 0x11000002 })
    canonical.1 (fun _ => start) (by omega) (by omega) inside
  have answered := memWrite_otc s shared
  rw [manualCount_eq, ← counted] at answered
  generalize dmaMoveToRam 6 true count _ _ = u at answered built
  obtain ⟨entries, outside, frame⟩ := built
  have channel (m : Fin 7) : u.dmaChannel m =
      (s.setDmaChannel 6 { s.dmaChannel 6 with chcr := 0x11000002 }).dmaChannel m := by rw [frame]; rfl
  have ram : (u.dmaComplete 6).ram = u.ram := by rw [dmaComplete_frame]
  refine ⟨_, answered, fun i hi => ?entry, fun j hj => ?outside, ?channel, fun m other => ?others, ?frame⟩
  case entry => exact (dmaRamRead_of_ram_eq ram _).trans (entries i hi)
  case outside =>
    have same : (u.dmaComplete 6).ramByte j = u.ramByte j := by simp only [State.ramByte, ram]
    exact same.trans (outside j (by omega))
  case channel =>
    have done : (0x11000002 : Word) &&& 0xEEFFFFFF = 0x00000002 := by decide
    rw [dmaChannel_dmaComplete, if_pos rfl, channel, stored, if_pos rfl]
    exact congrArg (fun v => { s.dmaChannel 6 with chcr := v }) done
  case others => rw [dmaChannel_dmaComplete, if_neg other, channel, stored, if_neg other]
  case frame => rw [dmaComplete_frame, frame]; rfl

/-! ## Linked lists -/

/-- The linked list of a state is in its main RAM alone. -/
theorem packetChain_of_ram_eq {s u : State} (same : u.ram = s.ram) (packets : Nat) {a : Word} {words : List Word}
    (chain : packetChain s packets a words) : packetChain u packets a words := by
  induction packets generalizing a words with
  | zero => exact chain
  | succ packets ih =>
    unfold packetChain at chain ⊢
    dsimp only at chain ⊢
    rw [dmaRamRead_of_ram_eq same, ramWordsAfter_of_ram_eq same]
    split at chain
    case isTrue last => rw [if_pos last]; exact chain
    case isFalse more =>
      rw [if_neg more]
      obtain ⟨rest, eq, tail⟩ := chain
      exact ⟨rest, eq, ih tail⟩

/-- GP0 words change no main RAM. -/
theorem ram_gp0WriteAll {words : List Word} {s t : State} (h : gp0WriteAll words s = .next t) : t.ram = s.ram := by
  induction words generalizing s with
  | nil => cases h; rfl
  | cons w words ih =>
    obtain ⟨u, first, rest⟩ := andThen_eq_next h
    exact (ih rest).trans (ram_of_gpuOnly (gpuOnly_gp0Write first))

/-- Chained outcomes agree when they agree after every next state. -/
theorem andThen_congr {r : Result} {f g : State → Result} (h : ∀ u, r = .next u → f u = g u) : andThen r f = andThen r g := by
  cases r with
  | next u => exact h u rfl
  | fault e => rfl
  | refused e => rfl

/-- A chain of no more packets than the limit is sent packet by packet, and each packet leaves the chain as it was. -/
theorem dmaLinkedList_of_packetChain (packets limit : Nat) (enough : packets ≤ limit) {s : State} {a : Word} {words : List Word}
    (chain : packetChain s packets a words) : dmaLinkedList limit a s = gp0WriteAll words s := by
  induction packets generalizing limit s a words with
  | zero => exact chain.elim
  | succ packets ih =>
    obtain ⟨limit, rfl⟩ : ∃ l, limit = l + 1 := ⟨limit - 1, by omega⟩
    unfold packetChain at chain
    unfold dmaLinkedList
    dsimp only at chain ⊢
    rw [dmaPayload_eq]
    split at chain
    case isTrue last =>
      subst chain
      simp only [last, if_true]
      cases gp0WriteAll _ s <;> rfl
    case isFalse more =>
      obtain ⟨rest, rfl, tail⟩ := chain
      rw [gp0WriteAll_append]
      refine andThen_congr fun u sent => ?_
      rw [if_neg more]
      exact ih limit (by omega) (packetChain_of_ram_eq (ram_gp0WriteAll sent) packets tail)

/-- Settles O38, by induction on the packets of the chain. -/
theorem linkedListForwardsThePayloads : Obligations.LinkedListForwardsThePayloads := by
  unfold Obligations.LinkedListForwardsThePayloads
  intro s a packets words enough chain
  exact dmaLinkedList_of_packetChain packets packetLimit enough chain

/-! ## DICR -/

/-- DICR of `t` has the master flag its formula gives, and line 3 is requested when the flag has risen since `s` (61_dma R348). -/
def masterFollows (s t : State) : Prop :=
  (t.dma.dicr.getLsbD 31 = true ↔ t.dma.dicr.getLsbD 15 = true ∨
    t.dma.dicr.getLsbD 23 = true ∧
      ∃ m, m < 7 ∧ t.dma.dicr.getLsbD (16 + m) = true ∧ t.dma.dicr.getLsbD (24 + m) = true) ∧
  t.iStat = (if s.dma.dicr.getLsbD 31 = false ∧ t.dma.dicr.getLsbD 31 = true then s.iStat ||| 0x008 else s.iStat)

/-- The bits of DICR once the master flag follows. -/
theorem getLsbD_dicr_dmaUpdateMaster (s : State) (d : Word) (i : Nat) :
    (s.dmaUpdateMaster d).dma.dicr.getLsbD i = if i = 31 then dicrMaster d else d.getLsbD i := by
  rw [dmaUpdateMaster_eq]
  exact getLsbD_setBit d 31 _ (by decide) i

/-- `update_master()`, called with the old master flag still in place (61_dma R348). -/
theorem masterFollows_dmaUpdateMaster {s : State} {d : Word} (old : d.getLsbD 31 = s.dma.dicr.getLsbD 31) :
    masterFollows s (s.dmaUpdateMaster d) := by
  have master : (s.dmaUpdateMaster d).dma.dicr.getLsbD 31 = dicrMaster d := by
    rw [getLsbD_dicr_dmaUpdateMaster, if_pos rfl]
  refine ⟨?formula, ?line⟩
  case formula =>
    rw [master, ← dicrMaster_iff, dmaUpdateMaster_eq, dicrMaster_setBit]
  case line =>
    rw [master, ← old, dmaUpdateMaster_eq]
    rfl

/-- A word store to DICR (61_dma R341, R347). -/
theorem memWrite_dicr (s : State) (v : Word) (shared : s.sr.getLsbD 16 = false) :
    s.memWrite 0x1F8010F4 .word v = .next (s.writeDicr v) :=
  memWrite_device s shared (deviceAt_dma 0x74 (by decide)) .word v

/-- Settles O39: both ways to DICR end in `dmaUpdateMaster`. -/
theorem dicrFollowsItsMasterFormula : Obligations.DicrFollowsItsMasterFormula := by
  unfold Obligations.DicrFollowsItsMasterFormula
  intro s follows
  refine ⟨fun v shared => ⟨_, memWrite_dicr s v shared, fun i hi => ?written, ?writtenMaster, ?writtenFrame⟩,
    fun n => ⟨?channel, ?others, fun i hi => ?completed, ?completedMaster, dmaComplete_frame s n, ?dpcr⟩⟩
  case written =>
    rw [State.writeDicr, getLsbD_dicr_dmaUpdateMaster, if_neg (by omega), getLsbD_dicrWritten _ _ _ (by omega)]
    simp only [hi, and_true]
  case writtenMaster =>
    refine masterFollows_dmaUpdateMaster ?_
    rw [getLsbD_dicrWritten _ _ _ (by omega), if_neg (by omega), if_neg (by omega)]
  case writtenFrame => rw [State.writeDicr, dmaUpdateMaster_eq]
  case channel => rw [dmaChannel_dmaComplete, if_pos rfl]
  case others => intro m other; rw [dmaChannel_dmaComplete, if_neg other]
  case completed => rw [dmaComplete_eq, getLsbD_dicr_dmaUpdateMaster, if_neg (by omega), getLsbD_dicrCompleted]
  case completedMaster =>
    refine masterFollows_dmaUpdateMaster (s := s.setDmaChannel n _) ?_
    have below : 31 ≠ 24 + (n : Nat) := by have := n.isLt; omega
    change (dicrCompleted s.dma.dicr n).getLsbD 31 = s.dma.dicr.getLsbD 31
    rw [getLsbD_dicrCompleted, decide_eq_false below, Bool.false_and, Bool.or_false]
  case dpcr => rw [dmaComplete_eq, dmaUpdateMaster_eq]; rfl

end Machine
end Sys2Proof
end

section
/-! The state after reset, the boundary after a CPU step, and what every step keeps of the devices (10_state R60;
70_reset_and_hazards R560, R563). -/

namespace Sys2Proof
namespace Machine

open Safety

/-! ## Reset -/

/-- Settles O54: every value is the one `State.reset` writes down; the two arrays hold one entry at every index. -/
theorem resetGivesTheSpecValues : Obligations.ResetGivesTheSpecValues := by
  unfold Obligations.ResetGivesTheSpecValues
  have channels (n : Fin 7) : State.reset.dmaChannel n = DmaChannel.reset := Vector.getElem_replicate n.isLt
  have timers (i : Fin 3) : State.reset.timer i = Timer.reset := Vector.getElem_replicate i.isLt
  exact ⟨rfl, rfl, State.x_zero _, rfl, rfl, rfl, rfl, rfl, fun _ => rfl, channels, rfl, rfl, timers, rfl, by decide, rfl, rfl,
    rfl, by decide, rfl, rfl, rfl, rfl, rfl⟩

/-! ## What every step keeps of the devices -/

/-- Settles O59: the three conditions are kept by every device operation, each for the parameters of the state. -/
theorem stepKeepsTheDeviceInvariant : Obligations.StepKeepsTheDeviceInvariant := by
  unfold Obligations.StepKeepsTheDeviceInvariant
  intro s t allowed fractions cd gpu stepped
  obtain ⟨params, fractions'⟩ := (kept_timers s.params allowed).step ⟨rfl, fractions⟩ stepped
  obtain ⟨-, cd'⟩ := (kept_cdBounds s.params allowed).step ⟨rfl, cd⟩ stepped
  exact ⟨params, fractions', cd', kept_gpuBounds.step gpu stepped⟩

/-! ## The device advance does not see the step counter -/

theorem setCd_countStep (s : State) (c : Cdrom) : s.countStep.setCd c = (s.setCd c).countStep := rfl

theorem setTimer_countStep (s : State) (i : Fin 3) (t : Timer) : s.countStep.setTimer i t = (s.setTimer i t).countStep := rfl

theorem timer_countStep (s : State) (i : Fin 3) : s.countStep.timer i = s.timer i := rfl

theorem ite_countStep (c : Prop) [Decidable c] (s t : State) :
    (if c then s.countStep else t.countStep) = (if c then s else t).countStep := (apply_ite State.countStep c s t).symm

/-- A trigger whose interrupt is enabled requests line 2 (63_cdrom R425). -/
theorem cdTrigger_enabled {s : State} {code : Nat} (enabled : ((s.cd.irqEnable &&& cdFlag code) != 0) = true) :
    s.cdTrigger code = (s.setCd { s.cd with irqFlags := s.cd.irqFlags ||| cdFlag code }).requestIrq 2 := if_pos enabled

/-- A trigger whose interrupt is not enabled sets its flag only (63_cdrom R425). -/
theorem cdTrigger_masked {s : State} {code : Nat} (masked : ¬((s.cd.irqEnable &&& cdFlag code) != 0) = true) :
    s.cdTrigger code = s.setCd { s.cd with irqFlags := s.cd.irqFlags ||| cdFlag code } := if_neg masked

theorem cdTrigger_countStep (s : State) (code : Nat) : s.countStep.cdTrigger code = (s.cdTrigger code).countStep := by
  by_cases enabled : ((s.cd.irqEnable &&& cdFlag code) != 0) = true
  · rw [cdTrigger_enabled enabled, cdTrigger_enabled (s := s.countStep) enabled]; rfl
  · rw [cdTrigger_masked enabled, cdTrigger_masked (s := s.countStep) enabled]; rfl

theorem cdRespond_countStep (s : State) (code : Nat) (bytes : List Byte) :
    s.countStep.cdRespond code bytes = (s.cdRespond code bytes).countStep := by
  simp only [State.cdRespond, State.countStep_cd, setCd_countStep, cdTrigger_countStep]

theorem cdFail_countStep (s : State) (e : Byte) (pad : Nat) : s.countStep.cdFail e pad = (s.cdFail e pad).countStep := by
  simp only [State.cdFail, State.countStep_cd, setCd_countStep, cdRespond_countStep]

theorem cdComplete_countStep (s : State) (bytes : List Byte) :
    s.countStep.cdComplete bytes = (s.cdComplete bytes).countStep := by
  simp only [State.cdComplete, State.countStep_cd, setCd_countStep, cdRespond_countStep]

theorem cdConcludeReadN_countStep (s : State) : s.countStep.cdConcludeReadN = s.cdConcludeReadN.countStep := by
  unfold State.cdConcludeReadN
  rw [State.countStep_cd]
  split
  · exact cdFail_countStep s 0x20 0
  · simp only [setCd_countStep, State.countStep_cd, cdRespond_countStep]

theorem cdConcludeGetId_countStep (s : State) : s.countStep.cdConcludeGetId = s.cdConcludeGetId.countStep := by
  simp only [State.cdConcludeGetId, State.countStep_cd, cdComplete_countStep, cdFail_countStep, ite_countStep]

theorem cdConclude_countStep (s : State) (p : Byte) : s.countStep.cdConclude p = (s.cdConclude p).countStep := by
  unfold State.cdConclude
  split
  · simp only [cdConcludeReadN_countStep, State.countStep_cd, setCd_countStep]
  · simp only [cdComplete_countStep, State.countStep_cd, setCd_countStep]
  · simp only [cdConcludeGetId_countStep, State.countStep_cd, setCd_countStep]
  · rfl

theorem cdAdvance_countStep (s : State) (cycles : Nat) : s.countStep.cdAdvance cycles = (s.cdAdvance cycles).countStep := by
  simp only [State.cdAdvance, State.countStep_cd, setCd_countStep, cdConclude_countStep, ite_countStep]

/-- The event requests its line: it is armed, in repeat mode or for the first time (62_timers R393). -/
def Timer.fires (t : Timer) (kind : TimerEvent) : Bool := t.armed kind && (t.irqRepeat || !t.requestLatch)

/-- An event that fires sets the latch and requests the timer's line (62_timers R393). -/
theorem timerEvent_fires {s : State} {i : Fin 3} {kind : TimerEvent} (fires : (s.timer i).fires kind = true) :
    s.timerEvent i kind = (s.setTimer i { s.timer i with requestLatch := true }).requestIrq (4 + i) := if_pos fires

/-- An event that does not fire changes nothing (62_timers R393). -/
theorem timerEvent_quiet {s : State} {i : Fin 3} {kind : TimerEvent} (quiet : ¬(s.timer i).fires kind = true) :
    s.timerEvent i kind = s := if_neg quiet

theorem timerEvent_countStep (s : State) (i : Fin 3) (kind : TimerEvent) :
    s.countStep.timerEvent i kind = (s.timerEvent i kind).countStep := by
  by_cases fires : (s.timer i).fires kind = true
  · rw [timerEvent_fires fires, timerEvent_fires (s := s.countStep) fires]; rfl
  · rw [timerEvent_quiet fires, timerEvent_quiet (s := s.countStep) fires]

theorem timerCount_countStep (s : State) (i : Fin 3) : s.countStep.timerCount i = (s.timerCount i).countStep := by
  simp only [State.timerCount, timer_countStep, setTimer_countStep, timerEvent_countStep, ite_countStep]

theorem timerMeetTarget_countStep (s : State) (i : Fin 3) :
    s.countStep.timerMeetTarget i = (s.timerMeetTarget i).countStep := by
  simp only [State.timerMeetTarget, timer_countStep, setTimer_countStep, timerEvent_countStep, ite_countStep]

theorem timerTick_countStep (s : State) (i : Fin 3) : s.countStep.timerTick i = (s.timerTick i).countStep := by
  rw [State.timerTick, timerCount_countStep, timerMeetTarget_countStep, State.timerTick]

theorem timerTicks_countStep (n : Nat) (i : Fin 3) (s : State) :
    State.timerTicks n i s.countStep = (State.timerTicks n i s).countStep := by
  induction n generalizing s with
  | zero => rfl
  | succ n ih => rw [State.timerTicks, timerTick_countStep, ih, State.timerTicks]

theorem advanceTimer_countStep (s : State) (i : Fin 3) (cycles : Nat) :
    s.countStep.advanceTimer i cycles = (s.advanceTimer i cycles).countStep := by
  simp only [State.advanceTimer, timer_countStep, State.countStep_params, setTimer_countStep, timerTicks_countStep]

/-- Counting a step and advancing the devices commute. -/
theorem advanceDevices_countStep (s : State) (cycles : Nat) :
    s.countStep.advanceDevices cycles = (s.advanceDevices cycles).countStep := by
  simp only [State.advanceDevices, State.advanceTimers, cdAdvance_countStep, advanceTimer_countStep]

/-! ## The boundary after a CPU step -/

/-- The device advance moves the CD-ROM, the timers and I_STAT only: no store, and no event is sent. -/
theorem advanceDevices_frame (s : State) (cycles : Nat) :
    s.advanceDevices cycles = { s with
      cd := (s.advanceDevices cycles).cd, timers := (s.advanceDevices cycles).timers,
      iStat := (s.advanceDevices cycles).iStat } := by
  have h1 := cdOnly_cdAdvance s cycles
  have h2 := timersOnly_advanceTimers (s.cdAdvance cycles) cycles
  unfold cdOnly at h1
  unfold timersOnly at h2
  unfold State.advanceDevices
  rw [h2, h1]

/-- The devices after the boundary: advanced when the count after this step is a multiple of DEV_QUANTUM (R560). -/
def movedDevices (s : State) : State :=
  if (s.stepCount + 1) % s.params.devQuantum = 0 then s.advanceDevices s.params.devQuantum else s

/-- The advance when due, on the counted state. -/
theorem advanceWhenDue_countStep (s : State) : s.countStep.advanceWhenDue = (movedDevices s).countStep := by
  unfold State.advanceWhenDue movedDevices
  rw [State.countStep_stepCount, State.countStep_params, Config.cyclesPerStep, Nat.mul_one, advanceDevices_countStep]
  split <;> rfl

theorem movedDevices_frame (s : State) :
    movedDevices s = { s with cd := (movedDevices s).cd, timers := (movedDevices s).timers, iStat := (movedDevices s).iStat } := by
  unfold movedDevices
  split
  · exact advanceDevices_frame s _
  · rfl

/-- `Present` is sent exactly at a frame boundary (70_reset_and_hazards R563). -/
theorem presentWhenDue_eq (s : State) :
    s.presentWhenDue =
      { s with trace := s.trace ++ (if s.stepCount % Config.frameSteps = 0 then [Event.present] else []) } := by
  unfold State.presentWhenDue
  split
  · rfl
  · rw [List.append_nil]

/-- With no action scripted the environment does nothing. -/
theorem environmentTurn_unscripted {s : State} (unscripted : s.inputs = []) : s.environmentTurn = s := by
  unfold State.environmentTurn
  rw [unscripted]

/-- Settles O53: the count commutes with the device advance, which leaves the CPU, the stores and the trace. -/
theorem stepBoundaryAdvancesDevices : Obligations.StepBoundaryAdvancesDevices := by
  unfold Obligations.StepBoundaryAdvancesDevices
  intro s unscripted n moved
  have frame : moved = _ := movedDevices_frame s
  refine ⟨?boundary, ?devices, ?memory⟩
  case boundary =>
    have counted : moved.stepCount = s.stepCount ∧ moved.trace = s.trace ∧ moved.inputs = [] := by
      rw [frame]; exact ⟨rfl, rfl, unscripted⟩
    obtain ⟨count, trace, inputs⟩ := counted
    have due : s.countStep.advanceWhenDue = moved.countStep := advanceWhenDue_countStep s
    rw [State.stepBoundary, due, environmentTurn_unscripted (by rw [presentWhenDue_eq]; exact inputs), presentWhenDue_eq,
      State.countStep_stepCount, State.countStep_trace, count, trace]
    unfold State.countStep
    rw [count]
    rfl
  case devices => unfold devicesOnly; rw [frame]
  case memory => rw [frame]; exact memorySame_of_eq rfl rfl rfl

end Machine
end Sys2Proof
end

section
/-! The timers: one tick as a function of the timer alone, advances in parts, and the mode register (62_timers). -/

namespace Sys2Proof
namespace Machine

/-! ## One tick of a timer on its own -/

/-- The tick wraps the counter (62_timers R389). -/
def Timer.wraps (t : Timer) : Bool := decide (t.counter = 0xFFFF)

/-- The counter after the counting half of a tick (62_timers R389). -/
def Timer.counted (t : Timer) : BitVec 16 := if t.wraps then 0 else t.counter + 1

/-- The tick meets the target (62_timers R389). -/
def Timer.meets (t : Timer) : Bool := decide (t.counted = t.target)

/-- The tick requests the timer's line: an armed event, in repeat mode or for the first time (62_timers R393). -/
def Timer.requests (t : Timer) : Bool :=
  (t.meets && t.mode.getLsbD 4 || t.wraps && t.mode.getLsbD 5) && (t.mode.getLsbD 6 || !t.requestLatch)

/-- The timer after one tick (62_timers R389, R393). -/
def Timer.ticked (t : Timer) : Timer :=
  { t with
    counter := if t.meets && t.mode.getLsbD 3 then 0 else t.counted
    targetFlag := t.targetFlag || t.meets
    overflowFlag := t.overflowFlag || t.wraps
    requestLatch := t.requestLatch || t.requests }

/-- `s` with timer `i` and the interrupt latches replaced: all that counting can change. -/
def State.tickedTo (s : State) (i : Fin 3) (t : Timer) (latches : BitVec 11) : State :=
  { s.setTimer i t with iStat := latches }

theorem timer_tickedTo (s : State) (i : Fin 3) (t : Timer) (latches : BitVec 11) (k : Fin 3) :
    (s.tickedTo i t latches).timer k = if k = i then t else s.timer k := timer_setTimer s i t k

theorem setTimer_tickedTo (s : State) (i : Fin 3) (t u : Timer) (latches : BitVec 11) :
    (s.tickedTo i t latches).setTimer i u = s.tickedTo i u latches := by
  unfold State.tickedTo
  rw [← setTimer_setTimer s i t u]
  rfl

theorem tickedTo_setTimer (s : State) (i : Fin 3) (t u : Timer) (latches : BitVec 11) :
    (s.setTimer i u).tickedTo i t latches = s.tickedTo i t latches := by
  unfold State.tickedTo
  rw [setTimer_setTimer]

/-- The latches after timer `i` did or did not request its line. -/
def timerRequest (i : Fin 3) (requested : Bool) (latches : BitVec 11) : BitVec 11 :=
  if requested then latches ||| ((1#11) <<< (4 + (i : Nat))) else latches

/-- An event of the timer (62_timers R393). -/
theorem timerEvent_tickedTo (s : State) (i : Fin 3) (t : Timer) (latches : BitVec 11) (kind : TimerEvent) :
    (s.tickedTo i t latches).timerEvent i kind =
      s.tickedTo i { t with requestLatch := t.requestLatch || t.fires kind } (timerRequest i (t.fires kind) latches) := by
  have same : (s.tickedTo i t latches).timer i = t := by rw [timer_tickedTo, if_pos rfl]
  cases fires : t.fires kind with
  | true =>
    rw [timerEvent_fires (by rw [same]; exact fires), same, setTimer_tickedTo, Bool.or_true]
    rfl
  | false =>
    rw [timerEvent_quiet (by rw [same, fires]; exact Bool.false_ne_true), Bool.or_false]
    rfl

/-- The timer after the counting half of a tick (62_timers R389). -/
def Timer.afterCount (t : Timer) : Timer :=
  { t with
    counter := t.counted
    overflowFlag := t.overflowFlag || t.wraps
    requestLatch := t.requestLatch || (t.wraps && t.fires .overflow) }

theorem timerCount_eq (s : State) (i : Fin 3) :
    s.timerCount i = s.tickedTo i (s.timer i).afterCount
      (timerRequest i ((s.timer i).wraps && (s.timer i).fires .overflow) s.iStat) := by
  unfold State.timerCount Timer.afterCount
  dsimp only
  split
  case isTrue full =>
    have wraps : (s.timer i).wraps = true := decide_eq_true full
    refine (timerEvent_tickedTo s i { s.timer i with counter := 0, overflowFlag := true } s.iStat .overflow).trans ?_
    simp only [Timer.counted, wraps, Bool.or_true, Bool.true_and]
    rfl
  case isFalse room =>
    have wraps : (s.timer i).wraps = false := decide_eq_false room
    simp only [Timer.counted, wraps, Bool.or_false, Bool.false_and]
    rfl

/-- The counter stands at the target. -/
def Timer.atTarget (t : Timer) : Bool := decide (t.counter = t.target)

/-- The timer after the target half of a tick (62_timers R389). -/
def Timer.afterTarget (t : Timer) : Timer :=
  { t with
    counter := if t.atTarget && t.resetOnTarget then 0 else t.counter
    targetFlag := t.targetFlag || t.atTarget
    requestLatch := t.requestLatch || (t.atTarget && t.fires .target) }

theorem timerMeetTarget_tickedTo (s : State) (i : Fin 3) (t : Timer) (latches : BitVec 11) :
    (s.tickedTo i t latches).timerMeetTarget i =
      s.tickedTo i t.afterTarget (timerRequest i (t.atTarget && t.fires .target) latches) := by
  have same : (s.tickedTo i t latches).timer i = t := by rw [timer_tickedTo, if_pos rfl]
  unfold State.timerMeetTarget Timer.afterTarget
  rw [same]
  dsimp only
  rw [setTimer_tickedTo, timerEvent_tickedTo, timer_tickedTo, if_pos rfl, setTimer_tickedTo]
  split
  case isTrue met =>
    have atTarget : t.atTarget = true := decide_eq_true met
    simp only [atTarget, Bool.true_and, Bool.or_true]
    split <;> rfl
  case isFalse missed =>
    have atTarget : t.atTarget = false := decide_eq_false missed
    simp only [atTarget, Bool.false_and, Bool.or_false]
    rfl

/-- The two halves together request the line once at most: the second finds the latch that the first left. -/
theorem requests_eq (wraps meets onTarget onOverflow again latch : Bool) :
    let first := wraps && (onOverflow && (again || !latch))
    let second := meets && (onTarget && (again || !(latch || first)))
    (latch || first || second) = (latch || (meets && onTarget || wraps && onOverflow) && (again || !latch)) ∧
      (first || second) = ((meets && onTarget || wraps && onOverflow) && (again || !latch)) := by
  revert wraps meets onTarget onOverflow again latch
  decide

theorem timerRequest_timerRequest (i : Fin 3) (a b : Bool) (latches : BitVec 11) :
    timerRequest i b (timerRequest i a latches) = timerRequest i (a || b) latches := by
  cases a <;> cases b <;> simp [timerRequest, BitVec.or_assoc]

/-- One tick (62_timers R389, R393). -/
theorem timerTick_eq (s : State) (i : Fin 3) :
    s.timerTick i = s.tickedTo i (s.timer i).ticked (timerRequest i (s.timer i).requests s.iStat) := by
  obtain ⟨latch, line⟩ := requests_eq (s.timer i).wraps (s.timer i).meets ((s.timer i).mode.getLsbD 4)
    ((s.timer i).mode.getLsbD 5) ((s.timer i).mode.getLsbD 6) (s.timer i).requestLatch
  have halves : (s.timer i).afterCount.afterTarget = (s.timer i).ticked := congrArg (fun latch =>
    { s.timer i with
      counter := if (s.timer i).meets && (s.timer i).mode.getLsbD 3 then 0 else (s.timer i).counted
      targetFlag := (s.timer i).targetFlag || (s.timer i).meets
      overflowFlag := (s.timer i).overflowFlag || (s.timer i).wraps
      requestLatch := latch }) latch
  rw [State.timerTick, timerCount_eq, timerMeetTarget_tickedTo, timerRequest_timerRequest, halves]
  exact congrArg (fun requested => s.tickedTo i _ (timerRequest i requested s.iStat)) line

/-- Settles O41: the tick is `timerTick_eq`, which replaces one timer and the interrupt latches. -/
theorem timerTickCountsAndRequests : Obligations.TimerTickCountsAndRequests := by
  unfold Obligations.TimerTickCountsAndRequests
  intro s i old t new wraps counted meets fires
  have tick : t = s.tickedTo i old.ticked (timerRequest i old.requests s.iStat) := timerTick_eq s i
  have ticked : new = old.ticked := by simp only [new, tick, timer_tickedTo, if_true]
  rw [ticked, tick]
  refine ⟨rfl, rfl, rfl, rfl, rfl, rfl, rfl, rfl, fun k other => ?_, rfl⟩
  rw [timer_tickedTo, if_neg other]

/-! ## Advancing in parts -/

/-- `s` with the retained fraction of timer `i` replaced. -/
def State.setFrac (s : State) (i : Fin 3) (frac : Nat) : State := s.setTimer i { s.timer i with frac := frac }

theorem setFrac_setFrac (s : State) (i : Fin 3) (a b : Nat) : (s.setFrac i a).setFrac i b = s.setFrac i b := by
  unfold State.setFrac
  rw [setTimer_setTimer, timer_setTimer, if_pos rfl]

/-- Ticks do not see the fraction. -/
theorem timerTick_setFrac (s : State) (i : Fin 3) (frac : Nat) : (s.setFrac i frac).timerTick i = (s.timerTick i).setFrac i frac := by
  have timer : (s.setFrac i frac).timer i = { s.timer i with frac := frac } := by rw [State.setFrac, timer_setTimer, if_pos rfl]
  rw [timerTick_eq, timer, timerTick_eq, State.setFrac, State.setFrac, timer_tickedTo, if_pos rfl, setTimer_tickedTo,
    tickedTo_setTimer]
  rfl

theorem timerTicks_setFrac (n : Nat) (i : Fin 3) (frac : Nat) (s : State) :
    State.timerTicks n i (s.setFrac i frac) = (State.timerTicks n i s).setFrac i frac := by
  induction n generalizing s with
  | zero => rfl
  | succ n ih => rw [State.timerTicks, timerTick_setFrac, ih, State.timerTicks]

theorem timerTicks_add (m n : Nat) (i : Fin 3) (s : State) :
    State.timerTicks (m + n) i s = State.timerTicks n i (State.timerTicks m i s) := by
  induction m generalizing s with
  | zero => rw [Nat.zero_add]; rfl
  | succ m ih => rw [Nat.succ_add, State.timerTicks, ih, State.timerTicks]

/-- Ticks leave the mode. -/
theorem mode_timerTicks (n : Nat) (i : Fin 3) (s : State) : ((State.timerTicks n i s).timer i).mode = (s.timer i).mode := by
  induction n generalizing s with
  | zero => rfl
  | succ n ih => rw [State.timerTicks, ih, timerTick_eq, timer_tickedTo, if_pos rfl]; rfl

/-- Ticks of timer `i` for one CPU cycle, as a numerator over `fracDen` (62_timers R387). -/
def State.timerRatio (s : State) (i : Fin 3) : Nat := Params.ratio s.params (clockSource i ((s.timer i).mode.extractLsb' 8 2))

/-- Rate conversion: the whole ticks of the sum happen, its fraction is retained (62_timers R388). -/
theorem advanceTimer_eq (s : State) (i : Fin 3) (cycles : Nat) :
    s.advanceTimer i cycles =
      State.timerTicks (((s.timer i).frac + cycles * s.timerRatio i) / Params.fracDen s.params) i
        (s.setFrac i (((s.timer i).frac + cycles * s.timerRatio i) % Params.fracDen s.params)) := rfl

/-- What an advance leaves for the next one: the fraction, the ratio and the parameters. -/
theorem advanceTimer_leaves (s : State) (i : Fin 3) (cycles : Nat) :
    ((s.advanceTimer i cycles).timer i).frac = ((s.timer i).frac + cycles * s.timerRatio i) % Params.fracDen s.params ∧
      (s.advanceTimer i cycles).timerRatio i = s.timerRatio i ∧ (s.advanceTimer i cycles).params = s.params := by
  have params := params_of_timersOnly (timersOnly_advanceTimer s i cycles)
  refine ⟨?_, ?_, params⟩
  · rw [advanceTimer_eq, frac_timerTicks, State.setFrac, timer_setTimer, if_pos rfl]
  · unfold State.timerRatio
    rw [params, advanceTimer_eq, mode_timerTicks, State.setFrac, timer_setTimer, if_pos rfl]

/-- Dividing a sum in two goes: the first quotient, and the remainder with the rest. -/
theorem div_add_mod_add_div (a b d : Nat) : a / d + (a % d + b) / d = (a + b) / d := by
  rcases Nat.eq_zero_or_pos d with rfl | positive
  · simp
  · conv_rhs => rw [← Nat.div_add_mod a d, Nat.add_assoc, Nat.mul_add_div positive]

/-- Settles O40: the second advance starts from the fraction the first retained, and ticks do not see the fraction. -/
theorem timerAdvancesAdd : Obligations.TimerAdvancesAdd := by
  unfold Obligations.TimerAdvancesAdd
  intro s i a b
  obtain ⟨frac, ratio, params⟩ := advanceTimer_leaves s i a
  rw [advanceTimer_eq (s.advanceTimer i a), frac, ratio, params, Nat.mod_add_mod, advanceTimer_eq s i a, ← timerTicks_setFrac,
    setFrac_setFrac, ← timerTicks_add, div_add_mod_add_div, Nat.add_assoc, ← Nat.add_mul]
  rfl

/-! ## The mode register -/

/-- The address of the mode register of timer `i` (62_timers R381). -/
theorem deviceAt_timerMode (i : Fin 3) :
    deviceAt (Machine.translate (BitVec.ofNat 32 (0x1F801104 + 16 * i))) = some (Device.timers, 16 * (i : Nat) + 4) := by
  have place := deviceAt_timers (16 * i + 4) (by have := i.isLt; omega)
  rwa [show 0x1F801100 + (16 * (i : Nat) + 4) = 0x1F801104 + 16 * i by omega] at place

/-- Settles O42: both accesses reach `Timer.writeMode` and `Timer.modeWord`, whose bits are `getLsbD_modeWord`. -/
theorem timerModeRegister : Obligations.TimerModeRegister := by
  unfold Obligations.TimerModeRegister
  intro s i v shared a
  have written : s.memWrite a .word v = .next (s.setTimer i ((s.timer i).writeMode v)) := by
    rw [memWrite_device s shared (deviceAt_timerMode i), ← timerWrite_mode]
    rfl
  have read : s.memRead a .word = ((s.timer i).modeWord.setWidth 32, s) := by
    rw [memRead_device s (deviceAt_timerMode i), ← timerRead_mode]
    rfl
  have bits (j : Nat) (hj : j < 32) : (s.memRead a .word).1.getLsbD j = (s.timer i).modeWord.getLsbD j := by
    rw [read, BitVec.getLsbD_setWidth, decide_eq_true hj, Bool.true_and]
  refine ⟨⟨_, written, ?timer, fun k other => ?others, rfl⟩, ?same, ?mode, ?latch, ?target, ?overflow, ?zero⟩
  case timer => rw [timer_setTimer, if_pos rfl]; rfl
  case others => rw [timer_setTimer, if_neg other]
  case same => rw [read]
  case mode =>
    refine extractLsb'_eq_of_bits fun j hj => ?_
    rw [bits _ (by omega), getLsbD_modeWord, if_pos (by omega), Nat.zero_add]
  case latch => rw [bits _ (by decide), getLsbD_modeWord]; rfl
  case target => rw [bits _ (by decide), getLsbD_modeWord]; rfl
  case overflow => rw [bits _ (by decide), getLsbD_modeWord]; rfl
  case zero =>
    refine extractLsb'_eq_of_bits fun j hj => ?_
    rw [bits _ (by omega), getLsbD_modeWord, if_neg (by omega), if_neg (by omega), if_neg (by omega), if_neg (by omega)]
    simp

end Machine
end Sys2Proof
end

section
/-! The CD-ROM controller: what a command leaves, delayed conclusions, and a new disc (63_cdrom). -/

namespace Sys2Proof
namespace Machine

open Safety

/-! ## The acknowledge, and what the parts of a command can do -/

/-- The state after the acknowledge that opens every command: nothing pending, busy, INT3 (63_cdrom R428). -/
def State.cdAcknowledged (s : State) : State :=
  (s.setCd { s.cd with delay := 0, pendingCmd := 0, cdError := false, busy := true, cdState := .cmdExec }).cdRespond 3
    [({ s.cd with delay := 0, pendingCmd := 0, cdError := false, busy := true, cdState := .cmdExec } : Cdrom).stat]

/-- A command is its acknowledge, the part its byte selects, and an empty parameter FIFO (63_cdrom R428). -/
theorem cd_cdCommand (s : State) (c : Byte) : (s.cdCommand c).cd = { (s.cdAcknowledged.cdDispatch c).cd with paramFifo := [] } := rfl

/-- The four ways the part of a command goes: it fails, it concludes at once, it leaves a conclusion pending, or it is GetStat. Only
Init touches the flags before it concludes (63_cdrom R435 to R446). -/
theorem cdDispatch_cases (s : State) (c : Byte) :
    (∃ e, s.cdDispatch c = s.cdFail e 0) ∨
      (∃ c' bytes, s.cdDispatch c = (s.setCd c').cdComplete bytes ∧ c'.delay = s.cd.delay ∧ c'.pendingCmd = s.cd.pendingCmd ∧
        (c ≠ 0x0A → c'.irqFlags = s.cd.irqFlags)) ∨
      (∃ cmd delay cdState, s.cdDispatch c = s.cdSchedule cmd delay cdState ∧ (c = 0x06 ∨ c = 0x15 ∨ c = 0x1A)) ∨
      s.cdDispatch c = s.cdGetStat := by
  unfold State.cdDispatch
  split
  · exact .inr (.inr (.inr rfl))
  · unfold State.cdSetLoc
    split
    · exact .inr (.inl ⟨_, _, rfl, rfl, rfl, fun _ => rfl⟩)
    · exact .inl ⟨_, rfl⟩
  · unfold State.cdReadN
    split
    · exact .inr (.inr (.inl ⟨_, _, _, rfl, .inl rfl⟩))
    · exact .inl ⟨_, rfl⟩
  · exact .inr (.inl ⟨_, _, rfl, rfl, rfl, fun _ => rfl⟩)
  · exact .inr (.inl ⟨_, _, rfl, rfl, rfl, fun _ => rfl⟩)
  · exact .inr (.inl ⟨_, _, rfl, rfl, rfl, fun h => absurd rfl h⟩)
  · unfold State.cdSetMode
    split
    · exact .inl ⟨_, rfl⟩
    · exact .inr (.inl ⟨_, _, rfl, rfl, rfl, fun _ => rfl⟩)
  · exact .inr (.inr (.inl ⟨_, _, _, rfl, .inr (.inl rfl)⟩))
  · unfold State.cdTest
    split
    · exact .inl ⟨_, rfl⟩
    · split
      · exact .inr (.inl ⟨s.cd, _, rfl, rfl, rfl, fun _ => rfl⟩)
      · exact .inl ⟨_, rfl⟩
  · exact .inr (.inr (.inl ⟨_, _, _, rfl, .inr (.inr rfl)⟩))
  · exact .inl ⟨_, rfl⟩

/-- A response leaves an interrupt latch that is set. -/
theorem latch_cdRespond (s : State) (code : Nat) (bytes : List Byte) (k : Nat) (h : s.iStat.getLsbD k = true) :
    (s.cdRespond code bytes).iStat.getLsbD k = true := by
  rw [iStat_cdRespond]
  split
  · rw [BitVec.getLsbD_or, h, Bool.true_or]
  · exact h

theorem latch_cdDispatch (s : State) (c : Byte) (k : Nat) (h : s.iStat.getLsbD k = true) :
    (s.cdDispatch c).iStat.getLsbD k = true := by
  rcases cdDispatch_cases s c with ⟨e, eq⟩ | ⟨c', bytes, eq, -⟩ | ⟨cmd, delay, cdState, eq, -⟩ | eq <;> rw [eq]
  · exact latch_cdRespond (s.setCd _) 5 _ k h
  · exact latch_cdRespond (s.setCd c') 2 bytes k h
  · exact h
  · exact h

/-- With its interrupt enabled the acknowledge requests line 2 (63_cdrom R425, R428). -/
theorem latch_cdAcknowledged {s : State} (enabled : s.cd.irqEnable.getLsbD 2 = true) :
    s.cdAcknowledged.iStat.getLsbD 2 = true := by
  have flag : ((s.cd.irqEnable &&& cdFlag 3) != 0) = true := by
    rw [bne_iff_ne]
    intro none
    have bit := congrArg (fun w => BitVec.getLsbD w 2) none
    rw [BitVec.getLsbD_and, enabled] at bit
    exact absurd bit (by decide)
  rw [State.cdAcknowledged, iStat_cdRespond, State.setCd_cd, if_pos flag, BitVec.getLsbD_or]
  simp

/-- The INT3 flag of the acknowledge stands but after Init (63_cdrom R428, R441). -/
theorem flag_cdDispatch {s : State} {c : Byte} (notInit : c ≠ 0x0A) (k : Nat) (h : s.cd.irqFlags.getLsbD k = true) :
    (s.cdDispatch c).cd.irqFlags.getLsbD k = true := by
  rcases cdDispatch_cases s c with ⟨e, eq⟩ | ⟨c', bytes, eq, -, -, flags⟩ | ⟨cmd, delay, cdState, eq, -⟩ | eq <;> rw [eq]
  · rw [cd_cdFail, BitVec.getLsbD_or, h, Bool.true_or]
  · rw [cd_cdComplete, State.setCd_cd, flags notInit, BitVec.getLsbD_or, h, Bool.true_or]
  · exact h
  · exact h

/-- A command but ReadN, SeekL and GetID is over at once (63_cdrom R428, R430). -/
theorem idle_cdDispatch {s : State} {c : Byte} (delay : s.cd.delay = 0) (pending : s.cd.pendingCmd = 0) (readN : c ≠ 0x06)
    (seekL : c ≠ 0x15) (getId : c ≠ 0x1A) :
    (s.cdDispatch c).cd.delay = 0 ∧ (s.cdDispatch c).cd.pendingCmd = 0 ∧ (s.cdDispatch c).cd.busy = false := by
  rcases cdDispatch_cases s c with ⟨e, eq⟩ | ⟨c', bytes, eq, delay', pending', -⟩ | ⟨_, _, _, -, rfl | rfl | rfl⟩ | eq
  · rw [eq, cd_cdFail]; exact ⟨rfl, rfl, rfl⟩
  · rw [eq, cd_cdComplete]; exact ⟨delay'.trans delay, pending'.trans pending, rfl⟩
  · exact absurd rfl readN
  · exact absurd rfl seekL
  · exact absurd rfl getId
  · rw [eq]; exact ⟨delay, pending, rfl⟩

/-- A byte that is no command fails (63_cdrom R446). -/
theorem cdDispatch_unknown (s : State) {c : Byte}
    (unknown : c ∉ ([0x01, 0x02, 0x06, 0x08, 0x09, 0x0A, 0x0E, 0x15, 0x19, 0x1A] : List Byte)) :
    s.cdDispatch c = s.cdFail 0x40 0 := by
  unfold State.cdDispatch
  split <;> first | rfl | exact absurd (by decide) unknown

/-- A failure right after the acknowledge (63_cdrom R427). -/
theorem cdCommand_failed {s : State} {c : Byte} {e : Byte} (failed : s.cdAcknowledged.cdDispatch c = s.cdAcknowledged.cdFail e 0) :
    (s.cdCommand c).cd.responseFifo = [(s.cdCommand c).cd.stat, e] ∧ (s.cdCommand c).cd.cdState = .error ∧
      (s.cdCommand c).cd.irqFlags.getLsbD 4 = true ∧ (s.cdCommand c).cd.targetLba = s.cd.targetLba := by
  rw [cd_cdCommand, failed, cd_cdFail, State.cdAcknowledged, cd_acknowledged]
  refine ⟨rfl, rfl, ?_, rfl⟩
  dsimp only
  rw [BitVec.getLsbD_or]
  simp

/-- Settles O43: the acknowledge sets INT3 and cancels, and the four ways of `cdDispatch_cases` keep what the clauses say. -/
theorem cdCommandsAcknowledge : Obligations.CdCommandsAcknowledge := by
  unfold Obligations.CdCommandsAcknowledge
  intro s c t
  have acknowledged : s.cdAcknowledged.cd = _ := cd_acknowledged s
  refine ⟨rfl, fun notInit => ?flag, fun enabled => ?line, fun readN seekL getId => ?idle, fun unknown => ?unknown⟩
  case flag =>
    refine flag_cdDispatch (s := s.cdAcknowledged) notInit 2 ?_
    rw [acknowledged, BitVec.getLsbD_or]
    simp
  case line => exact latch_cdDispatch _ c 2 (latch_cdAcknowledged enabled)
  case idle =>
    exact idle_cdDispatch (s := s.cdAcknowledged) (by rw [acknowledged]) (by rw [acknowledged]) readN seekL getId
  case unknown =>
    obtain ⟨response, state, flag, -⟩ := cdCommand_failed (cdDispatch_unknown s.cdAcknowledged unknown)
    exact ⟨response, state, flag⟩

/-! ## SetLoc -/

/-- A BCD byte in plain arithmetic (63_cdrom R436). -/
theorem bcd_eq (b : Byte) : bcd b = (b.toNat / 16 : Nat) * 10 + (b.toNat % 16 : Nat) := by
  have := b.isLt
  unfold bcd
  simp [Nat.shiftRight_eq_div_pow]
  omega

/-- SetLoc with its three bytes concludes with the new target (63_cdrom R436). -/
theorem cdDispatch_setLoc {s : State} {m sec f : Byte} {rest : List Byte} (three : s.cd.paramFifo = m :: sec :: f :: rest) :
    s.cdDispatch 0x02 =
      (s.setCd { s.cd with targetLba := BitVec.ofInt 32 (msfToLba m sec f) }).cdComplete
        [({ s.cd with targetLba := BitVec.ofInt 32 (msfToLba m sec f) } : Cdrom).stat] := by
  change s.cdSetLoc = _
  unfold State.cdSetLoc
  rw [three]
  rfl

/-- SetLoc with fewer fails (63_cdrom R436). -/
theorem cdDispatch_setLoc_fewer {s : State} (fewer : s.cd.paramFifo.length < 3) : s.cdDispatch 0x02 = s.cdFail 0x40 0 := by
  change s.cdSetLoc = _
  unfold State.cdSetLoc
  split
  case h_1 three =>
    rw [three] at fewer
    simp only [List.length_cons] at fewer
    omega
  case h_2 => rfl

/-- Settles O44: SetLoc runs on the acknowledged controller, whose parameters are those that were pushed. -/
theorem cdSetLocSetsTheTarget : Obligations.CdSetLocSetsTheTarget := by
  unfold Obligations.CdSetLocSetsTheTarget
  intro s m sec f rest
  have parameters : s.cdAcknowledged.cd.paramFifo = s.cd.paramFifo := by rw [State.cdAcknowledged, cd_acknowledged]
  refine ⟨fun three => ?set, fun fewer => ?failed⟩
  case set =>
    dsimp only
    rw [cd_cdCommand, cdDispatch_setLoc (parameters.trans three), cd_cdComplete, ← bcd_eq, ← bcd_eq, ← bcd_eq]
    refine ⟨rfl, rfl, rfl, ?_⟩
    dsimp only
    rw [BitVec.getLsbD_or]
    simp
  case failed =>
    obtain ⟨response, state, flag, target⟩ := cdCommand_failed (cdDispatch_setLoc_fewer (parameters ▸ fewer))
    exact ⟨target, state, response, flag⟩

/-! ## Delayed conclusions -/

/-- When the cycles of its delay have been handed over, the pending command concludes (63_cdrom R430). -/
theorem cdAdvance_concludes {s : State} {cycles : Nat} (pending : 0 < s.cd.delay) (due : s.cd.delay ≤ cycles) :
    s.cdAdvance cycles = (s.setCd { s.cd with delay := 0 }).cdConclude s.cd.pendingCmd := by
  rw [State.cdAdvance, if_neg (by omega), if_pos due]

/-- GetID leaves its conclusion pending (63_cdrom R445). -/
theorem cd_cdCommand_getId (s : State) :
    (s.cdCommand 0x1A).cd = { s.cdAcknowledged.cd with
      cdState := .getIdPending, pendingCmd := 0x1A, delay := s.params.cdDelayGetId, paramFifo := [] } := by
  have params : s.cdAcknowledged.params = s.params :=
    params_of_cdOnly (cdOnly_trans (cdOnly_setCd s _) (cdOnly_cdRespond _ _ _))
  rw [← params]
  rfl

/-- GetID's conclusion without a disc (63_cdrom R445). -/
theorem cd_cdConclude_getId {s : State} (noDisc : s.cd.discPresent = false) :
    (s.cdConclude 0x1A).cd = (s.cdFail 0x80 6).cd := by
  have failed : s.cdConcludeGetId = s.cdFail 0x80 6 := if_neg (by rw [noDisc]; exact Bool.false_ne_true)
  change ({ s.cdConcludeGetId.cd with pendingCmd := 0 } : Cdrom) = _
  rw [failed, cd_cdFail]

/-- Settles O45: the conclusion finds no disc and fails with six bytes of padding. -/
theorem cdGetIdWithoutADiscFails : Obligations.CdGetIdWithoutADiscFails := by
  unfold Obligations.CdGetIdWithoutADiscFails
  intro s cycles noDisc quiet positive due t u
  have acknowledged : s.cdAcknowledged.cd = _ := cd_acknowledged s
  have pending : t.cd = _ := cd_cdCommand_getId s
  have delay : t.cd.delay = s.params.cdDelayGetId := by rw [pending]
  have command : t.cd.pendingCmd = 0x1A := by rw [pending]
  have noDisc' : t.cd.discPresent = false := by rw [pending, acknowledged]; exact noDisc
  have concluded : u.cd = ((t.setCd { t.cd with delay := 0 }).cdFail 0x80 6).cd := by
    simp only [u]
    rw [cdAdvance_concludes (by omega) (by omega), command]
    exact cd_cdConclude_getId noDisc'
  rw [concluded, cd_cdFail, State.setCd_cd, pending, acknowledged]
  refine ⟨rfl, rfl, rfl, ?response, ?flags, rfl, rfl, rfl, rfl, rfl⟩
  case response =>
    simp only [Cdrom.stat, quiet, noDisc]
    rfl
  case flags => rw [BitVec.or_assoc]; rfl

/-- A sector that was read has the length of a raw sector (00_scope R9). -/
theorem length_of_readTarget {c : Cdrom} {sector : List Byte} (found : c.readTarget = some sector) : sector.length = 2352 := by
  unfold Cdrom.readTarget at found
  split at found
  case h_2 => cases found
  case h_1 =>
    unfold SectorSource.readSector at found
    split at found
    case h_2 => cases found
    case h_1 =>
      split at found
      case isTrue full => cases found; exact full
      case isFalse => cases found

/-- The user bytes: how many, and where they stand in the sector (63_cdrom R438). -/
theorem userBytes_spec (c : Cdrom) {sector : List Byte} (raw : sector.length = 2352) :
    (c.userBytes sector).length = (if c.sector2340 then 2340 else 2048) ∧
      ∀ k, k < (c.userBytes sector).length → (c.userBytes sector)[k]? = sector[(if c.sector2340 then 12 else 24) + k]? := by
  unfold Cdrom.userBytes
  split
  all_goals
    refine ⟨by simp [raw], fun k inside => ?_⟩
    rw [List.length_take] at inside
    rw [List.getElem?_take_of_lt (by omega), List.getElem?_drop]

/-- The controller after ReadN's conclusion with a sector (63_cdrom R438). -/
theorem cd_cdConcludeReadN {s : State} {sector : List Byte} (found : s.cd.readTarget = some sector) :
    s.cdConcludeReadN.cd = { s.cd with
      dataBuf := s.cd.userBytes sector ++ s.cd.dataBuf.drop (s.cd.userBytes sector).length
      dataLen := (s.cd.userBytes sector).length, dataPos := 0
      responseFifo := [({ s.cd with cdState := .idle, busy := false } : Cdrom).stat]
      irqFlags := s.cd.irqFlags ||| 0x03#5, cdState := .idle, busy := false, targetLba := s.cd.targetLba + 1 } := by
  have flags : s.cd.irqFlags ||| cdFlag 1 ||| cdFlag 2 = s.cd.irqFlags ||| 0x03#5 := by rw [BitVec.or_assoc]; rfl
  unfold State.cdConcludeReadN
  rw [found]
  simp only [State.setCd_cd, cd_cdRespond, flags]
  rfl

/-- ReadN's conclusion without a sector (63_cdrom R438). -/
theorem cdConcludeReadN_missing {s : State} (missing : s.cd.readTarget = none) : s.cdConcludeReadN = s.cdFail 0x20 0 := by
  unfold State.cdConcludeReadN
  rw [missing]

/-- Settles O46: the pending conclusion is ReadN's, with or without a sector. -/
theorem cdReadNDeliversOneSector : Obligations.CdReadNDeliversOneSector := by
  unfold Obligations.CdReadNDeliversOneSector
  intro s cycles pending positive due u
  let v := s.setCd { s.cd with delay := 0 }
  have concluded : u.cd = { v.cdConcludeReadN.cd with pendingCmd := 0 } := by
    simp only [u]
    rw [cdAdvance_concludes positive due, pending]
    rfl
  refine ⟨fun sector found => ?found, fun missing => ?missing, ?delay, ?pending⟩
  case found =>
    obtain ⟨length, bytes⟩ := userBytes_spec s.cd (length_of_readTarget found)
    rw [concluded, cd_cdConcludeReadN (s := v) found]
    refine ⟨rfl, rfl, length, fun k inside => ?_, rfl, rfl, rfl, rfl⟩
    exact (List.getElem?_append_left inside).trans (bytes k inside)
  case missing =>
    rw [concluded, cdConcludeReadN_missing (s := v) missing, cd_cdFail]
    exact ⟨rfl, rfl, rfl, rfl, rfl⟩
  case delay =>
    cases target : s.cd.readTarget with
    | some sector => rw [concluded, cd_cdConcludeReadN (s := v) target]; rfl
    | none => rw [concluded, cdConcludeReadN_missing (s := v) target, cd_cdFail]
  case pending => rw [concluded]

/-! ## A new disc -/

/-- Settles O47: the new controller is the reset one with the source bound. -/
theorem loadDiscResetsTheController : Obligations.LoadDiscResetsTheController := by
  unfold Obligations.LoadDiscResetsTheController
  intro s source
  have status : (s.loadDisc source).cd.hostStatus = Cdrom.reset.hostStatus := rfl
  exact ⟨rfl, rfl, rfl, rfl, status.trans (by decide)⟩

end Machine
end Sys2Proof
end

section
/-! The GPU's ports: GPUSTAT, GP1 reset, the port faults, and the drawing commands (64_gpu). -/

namespace Sys2Proof
namespace Machine

open Safety

/-! ## GPUSTAT -/

/-- Bit 26 of GPUSTAT (64_gpu R525). -/
theorem getLsbD_stat_ready (g : Gpu) : g.stat.getLsbD 26 = g.ready := by
  unfold Gpu.stat
  simp only [BitVec.getLsbD_append, BitVec.getLsbD_ofBool]
  simp

/-- Bit 27 of GPUSTAT (64_gpu R525). -/
theorem getLsbD_stat_reading (g : Gpu) : g.stat.getLsbD 27 = (g.gp0Mode == .vramToCpu) := by
  unfold Gpu.stat
  simp only [BitVec.getLsbD_append, BitVec.getLsbD_ofBool]
  simp

/-- Settles O48: each field is read off bit by bit from the concatenation that GPUSTAT is. -/
theorem gpuStatShowsTheFields : Obligations.GpuStatShowsTheFields := by
  unfold Obligations.GpuStatShowsTheFields
  intro g
  have ready : g.stat.getLsbD 26 = true ↔ g.gp0Mode = .command ∧ g.cmdRemaining = 0 := by
    rw [getLsbD_stat_ready, Gpu.ready, Bool.and_eq_true, beq_iff_eq, beq_iff_eq]
  have reading : g.stat.getLsbD 27 = true ↔ g.gp0Mode = .vramToCpu := by rw [getLsbD_stat_reading, beq_iff_eq]
  have exclusive : ¬(g.stat.getLsbD 26 = true ∧ g.stat.getLsbD 27 = true) := by
    rintro ⟨isReady, isReading⟩
    have command := (ready.1 isReady).1
    rw [reading.1 isReading] at command
    cases command
  refine ⟨?_, ?_, ?_, ?_, ?_, ?_, ?_, ?_, ?_, ?zero14, ?_, ?_, ?_, ?_, ?_, ?_, ?_, ?_, ?_, ?zero25, ready, reading, ?one28, ?_,
    ?zero31, exclusive⟩
  case zero14 | zero25 | one28 | zero31 =>
    unfold Gpu.stat
    simp only [BitVec.getLsbD_append]
    simp
  all_goals
    refine extractLsb'_eq_of_bits fun i hi => ?_
    unfold Gpu.stat
    simp only [BitVec.getLsbD_append]
    interval_cases i <;> simp

/-! ## The ports in the device map -/

/-- GP0 is the word at 0x1F801810 (20_memory R82). -/
theorem deviceAt_gp0 : deviceAt (Machine.translate 0x1F801810) = some (.gp0, 0) := by decide

/-- GP1 is the word at 0x1F801814 (20_memory R82). -/
theorem deviceAt_gp1 : deviceAt (Machine.translate 0x1F801814) = some (.gp1, 0) := by decide

theorem memWrite_gp0 (s : State) (v : Word) (shared : s.sr.getLsbD 16 = false) :
    s.memWrite 0x1F801810 .word v = s.gp0Write v := memWrite_device s shared deviceAt_gp0 .word v

theorem memWrite_gp1 (s : State) (v : Word) (shared : s.sr.getLsbD 16 = false) :
    s.memWrite 0x1F801814 .word v = s.gp1Write v := memWrite_device s shared deviceAt_gp1 .word v

theorem memRead_gp1 (s : State) : s.memRead 0x1F801814 .word = (s.gpu.stat, s) := memRead_device s deviceAt_gp1 .word

/-! ## GP1 -/

/-- GP1 0x00 (64_gpu R516). -/
theorem gp1Write_reset (s : State) {v : Word} (opcode : v.extractLsb' 24 8 = 0x00) :
    s.gp1Write v = .next (s.setGpu Gpu.reset) := by
  unfold State.gp1Write Gpu.gp1
  rw [opcode]
  rfl

/-- A GP1 word with another opcode (64_gpu R515). -/
theorem gp1_unknown (g : Gpu) {v : Word} (unknown : 8 < (v.extractLsb' 24 8).toNat) : g.gp1 v = none := by
  unfold Gpu.gp1
  split
  case h_10 => rfl
  all_goals
    rename_i opcode
    rw [opcode] at unknown
    exact absurd unknown (by decide)

/-- Settles O49: the store replaces the GPU by its reset value, whose GPUSTAT is a closed term. -/
theorem gp1ResetRestoresTheGpu : Obligations.Gp1ResetRestoresTheGpu := by
  unfold Obligations.Gp1ResetRestoresTheGpu
  intro s v shared opcode
  have status : Gpu.reset.stat = 0x14800000 := by decide
  refine ⟨_, (memWrite_gp1 s v shared).trans (gp1Write_reset s opcode), rfl, ?_, rfl, rfl, memorySame_of_eq rfl rfl rfl⟩
  rw [memRead_gp1, State.setGpu_gpu, status]

/-! ## Faults -/

/-- An opcode outside the table (64_gpu R471). -/
theorem gp0Words_unknown {op : Byte}
    (unknown : op ∉ ([0x00, 0x01, 0x02, 0x28, 0x2C, 0x30, 0x38, 0xA0, 0xC0, 0xE1, 0xE2, 0xE3, 0xE4, 0xE5, 0xE6] : List Byte)) :
    gp0Words op = none := by
  unfold gp0Words
  split <;> first | rfl | exact absurd (by decide) unknown

/-- Settles O51: the word's opcode is in neither table, or the mode takes no word. -/
theorem unknownGpuWordsFault : Obligations.UnknownGpuWordsFault := by
  unfold Obligations.UnknownGpuWordsFault
  intro s v shared
  rw [memWrite_gp0 s v shared, memWrite_gp1 s v shared]
  refine ⟨fun command idle unknown => ?opens, fun reading => ?reading, fun unknown => ?gp1⟩
  case opens =>
    unfold State.gp0Write
    rw [command]
    dsimp only
    rw [if_pos idle, gp0Words_unknown unknown]
  case reading =>
    unfold State.gp0Write
    rw [reading]
  case gp1 =>
    unfold State.gp1Write
    rw [gp1_unknown s.gpu unknown]

/-! ## Whole commands -/

/-- The last word of a command runs its handler (64_gpu R472). -/
theorem gp0Accept_last {s : State} (w : Word) (last : s.gpu.cmdRemaining = 1) :
    s.gp0Accept w = (s.setGpu { s.gpu with cmdBuf := s.gpu.cmdBuf ++ [w], cmdRemaining := 0 }).gp0Run := by
  unfold State.gp0Accept
  rw [last]
  rfl

/-- A word before the last is kept (64_gpu R472). -/
theorem gp0Accept_more {s : State} (w : Word) {n : Nat} (more : s.gpu.cmdRemaining = n + 2) :
    s.gp0Accept w = s.setGpu { s.gpu with cmdBuf := s.gpu.cmdBuf ++ [w], cmdRemaining := n + 1 } := by
  unfold State.gp0Accept
  rw [more]
  rfl

/-- In Command mode an open command takes the word (64_gpu R472). -/
theorem gp0Write_accept {s : State} (w : Word) (command : s.gpu.gp0Mode = .command) (opened : s.gpu.cmdRemaining ≠ 0) :
    s.gp0Write w = .next (s.gp0Accept w) := by
  unfold State.gp0Write
  rw [command]
  exact if_neg opened

/-- In Command mode with no command open the word opens one (64_gpu R472). -/
theorem gp0Write_open {s : State} {w : Word} {n : Nat} (command : s.gpu.gp0Mode = .command) (idle : s.gpu.cmdRemaining = 0)
    (listed : gp0Words (w.extractLsb' 24 8) = some n) :
    s.gp0Write w = .next ((s.setGpu (s.gpu.openCommand (w.extractLsb' 24 8) n)).gp0Accept w) := by
  unfold State.gp0Write
  rw [command]
  dsimp only
  rw [if_pos idle, listed]

/-- The words that complete an open command run it, whatever stands in them (64_gpu R472). -/
theorem gp0WriteAll_gp0Accept (words : List Word) {s : State} (w : Word) (command : s.gpu.gp0Mode = .command)
    (count : s.gpu.cmdRemaining = words.length + 1) :
    gp0WriteAll words (s.gp0Accept w) =
      .next (s.setGpu { s.gpu with cmdBuf := s.gpu.cmdBuf ++ w :: words, cmdRemaining := 0 }).gp0Run := by
  induction words generalizing s w with
  | nil => rw [gp0Accept_last w count]; rfl
  | cons v words ih =>
    rw [gp0Accept_more w count, gp0WriteAll, gp0Write_accept v (by exact command) (Nat.succ_ne_zero _), andThen_next,
      ih v (by exact command) rfl, State.setGpu_gpu, List.append_assoc]
    rfl

/-- A command sent whole to an idle GP0 runs on its words (64_gpu R472). -/
theorem gp0WriteAll_command {s : State} {w : Word} {words : List Word} (command : s.gpu.gp0Mode = .command)
    (idle : s.gpu.cmdRemaining = 0) (listed : gp0Words (w.extractLsb' 24 8) = some (words.length + 1)) :
    gp0WriteAll (w :: words) s =
      .next (s.setGpu { s.gpu with cmdBuf := w :: words, cmdOpcode := w.extractLsb' 24 8 }).gp0Run := by
  have closed : ({ s.gpu with cmdBuf := w :: words, cmdOpcode := w.extractLsb' 24 8 } : Gpu) =
      { s.gpu with cmdBuf := w :: words, cmdOpcode := w.extractLsb' 24 8, cmdRemaining := 0 } := by rw [← idle]
  rw [gp0WriteAll, gp0Write_open command idle listed, andThen_next, gp0WriteAll_gp0Accept words w (by exact command) rfl,
    closed]
  rfl

/-! ## Drawing -/

/-- A quad is two triangles, (0, 1, 2) and (0, 2, 3) (64_gpu R490). -/
theorem emitQuad_eq (s : State) (p0 p1 p2 p3 : Vertex) (c0 c1 c2 c3 : Colour) :
    s.emitQuad p0 p1 p2 p3 c0 c1 c2 c3 =
      { s with trace := s.trace ++ [.triangle p0 p1 p2 c0 c1 c2, .triangle p0 p2 p3 c0 c2 c3] } := by
  simp only [State.emitQuad, State.emit, List.append_assoc, List.cons_append, List.nil_append]

/-- Settles O50: each command runs on its words, and its handler reads the positions and colours from them. -/
theorem drawingCommandsEmitTriangles : Obligations.DrawingCommandsEmitTriangles := by
  unfold Obligations.DrawingCommandsEmitTriangles
  intro s w0 w1 w2 w3 w4 w5 w6 w7 w8 command idle p c after
  have run {words : List Word} (listed : gp0Words (w0.extractLsb' 24 8) = some (words.length + 1)) :=
    gp0WriteAll_command command idle listed
  refine ⟨fun opcode => ⟨_, run (by rw [opcode]; rfl), ?triangle⟩, fun opcode => ⟨_, run (by rw [opcode]; rfl), ?shadedQuad⟩,
    fun opcode => ⟨_, run (by rw [opcode]; rfl), ?monoQuad⟩, fun opcode => ⟨_, run (by rw [opcode]; rfl), ?texturedQuad⟩⟩
  all_goals simp only [after, opcode]
  case triangle => rfl
  case shadedQuad | monoQuad | texturedQuad => exact emitQuad_eq _ _ _ _ _ _ _ _ _

end Machine
end Sys2Proof
end

section
/-! Image transfers: an image loaded into VRAM and read back comes back word for word (64_gpu R505 to R514). -/

namespace Sys2Proof
namespace Machine

open Safety

/-! ## The cursor -/

/-- The transfer with its cursor at pixel `i` in row-major order and `words` data words expected. -/
def Transfer.atPixel (t : Transfer) (i words : Nat) : Transfer := { t with col := i % t.w, row := i / t.w, words := words }

/-- The image is not empty and fits VRAM (64_gpu R505). -/
def Transfer.fits (t : Transfer) : Prop := 0 < t.w ∧ t.w ≤ 1024 ∧ 0 < t.h ∧ t.h ≤ 512

/-- The cursor moves to the next pixel in row-major order (64_gpu R507). -/
theorem atPixel_advance {t : Transfer} (fits : t.fits) (i words : Nat) :
    (t.atPixel i words).advance = t.atPixel (i + 1) words := by
  obtain ⟨positive, -⟩ := fits
  have split := Nat.div_add_mod i t.w
  have below := Nat.mod_lt i positive
  unfold Transfer.advance Transfer.atPixel
  dsimp only
  split_ifs with rowEnd
  · have next : (i + 1) / t.w = i / t.w + 1 ∧ (i + 1) % t.w = 0 := by
      rw [Nat.div_mod_unique positive, Nat.mul_succ]
      omega
    rw [next.1, next.2]
  · have next : (i + 1) / t.w = i / t.w ∧ (i + 1) % t.w = i % t.w + 1 := by
      rw [Nat.div_mod_unique positive]
      omega
    rw [next.1, next.2]

/-- The cursor is inside the image for just its `w * h` pixels (64_gpu R507). -/
theorem atPixel_inside {t : Transfer} (fits : t.fits) (i words : Nat) :
    (t.atPixel i words).row < (t.atPixel i words).h ↔ i < t.w * t.h := by
  rw [Nat.mul_comm]
  exact Nat.div_lt_iff_lt_mul fits.1

/-- The pixel of VRAM under the cursor (64_gpu R507). -/
def State.pixelAt (s : State) (t : Transfer) (i : Nat) : Half := s.pixel ((t.x + i % t.w) % 1024) ((t.y + i / t.w) % 512)

/-- No two pixels of an image that fits stand at one place of VRAM, wrapped or not. -/
theorem atPixel_injective {t : Transfer} (fits : t.fits) {i j : Nat} (hi : i < t.w * t.h) (hj : j < t.w * t.h)
    (x : (t.x + i % t.w) % 1024 = (t.x + j % t.w) % 1024) (y : (t.y + i / t.w) % 512 = (t.y + j / t.w) % 512) : i = j := by
  obtain ⟨positive, narrow, -, low⟩ := fits
  rw [Nat.mul_comm] at hi hj
  have colI := Nat.mod_lt i positive
  have colJ := Nat.mod_lt j positive
  have rowI := (Nat.div_lt_iff_lt_mul positive).2 hi
  have rowJ := (Nat.div_lt_iff_lt_mul positive).2 hj
  have col : i % t.w = j % t.w := (Nat.ModEq.add_left_cancel' t.x x).eq_of_lt_of_lt (by omega) (by omega)
  have row : i / t.w = j / t.w := (Nat.ModEq.add_left_cancel' t.y y).eq_of_lt_of_lt (by omega) (by omega)
  rw [← Nat.div_add_mod i t.w, ← Nat.div_add_mod j t.w, col, row]

/-! ## Pixels of VRAM -/

/-- The two bytes of a pixel put together again (10_state R49). -/
theorem halves_of_half (v : Half) : (v.setWidth 32).extractLsb' (8 * 1) 8 ++ (v.setWidth 32).extractLsb' (8 * 0) 8 = v := by
  rw [BitVec.extractLsb'_append_extractLsb'_eq_extractLsb' (by decide)]
  exact BitVec.eq_of_toNat_eq (by simp; omega)

/-- A pixel after a pixel was written, both inside VRAM (10_state R49). -/
theorem pixel_setPixel {s : State} (wf : s.vram.wf Config.vramSize = true) {x y x' y' : Nat} (hx : x < 1024) (hy : y < 512)
    (hx' : x' < 1024) (v : Half) :
    (s.setPixel x y v).pixel x' y' = if x' = x ∧ y' = y then v else s.pixel x' y' := by
  have size : Config.vramSize = 0x100000 := rfl
  have inside : pixelOffset x y + 2 ≤ Config.vramSize := by unfold pixelOffset; omega
  unfold State.pixel
  rw [State.vramByte_setPixel s wf x y v inside, State.vramByte_setPixel s wf x y v inside]
  by_cases same : x' = x ∧ y' = y
  · obtain ⟨rfl, rfl⟩ := same
    rw [if_pos (by omega), if_pos (by omega), if_pos ⟨rfl, rfl⟩, Nat.add_sub_cancel_left, Nat.sub_self]
    exact halves_of_half v
  · have apart : pixelOffset x' y' + 2 ≤ pixelOffset x y ∨ pixelOffset x y + 2 ≤ pixelOffset x' y' := by
      unfold pixelOffset; omega
    rw [if_neg (by omega), if_neg (by omega), if_neg same]

theorem pixelAt_setPixel {s : State} (wf : s.vram.wf Config.vramSize = true) {t : Transfer} (fits : t.fits) {i j : Nat}
    (hi : i < t.w * t.h) (hj : j < t.w * t.h) (v : Half) :
    (s.setPixel ((t.x + i % t.w) % 1024) ((t.y + i / t.w) % 512) v).pixelAt t j = if j = i then v else s.pixelAt t j := by
  unfold State.pixelAt
  have bound (n : Nat) : n % 1024 < 1024 ∧ n % 512 < 512 := ⟨Nat.mod_lt _ (by decide), Nat.mod_lt _ (by decide)⟩
  rw [pixel_setPixel wf (bound _).1 (bound _).2 (bound _).1]
  refine if_congr ⟨fun same => atPixel_injective fits hj hi same.1 same.2, ?_⟩ rfl rfl
  rintro rfl
  exact ⟨rfl, rfl⟩

/-! ## Loading -/

/-- One pixel of a load inside the image (64_gpu R507). -/
theorem loadPixel_inside {s : State} {t : Transfer} (fits : t.fits) (wf : s.vram.wf Config.vramSize = true) {i n : Nat}
    (cursor : s.gpu.ld = t.atPixel i n) (inside : i < t.w * t.h) (v : Half) :
    (s.loadPixel v).vram.wf Config.vramSize = true ∧ (s.loadPixel v).gpu = { s.gpu with ld := t.atPixel (i + 1) n } ∧
      ∀ j, j < t.w * t.h → (s.loadPixel v).pixelAt t j = if j = i then v else s.pixelAt t j := by
  have loaded : s.loadPixel v = (s.setPixel ((t.x + i % t.w) % 1024) ((t.y + i / t.w) % 512) v).setGpu
      { s.gpu with ld := t.atPixel (i + 1) n } := by
    unfold State.loadPixel
    rw [cursor]
    dsimp only
    rw [if_pos ((atPixel_inside fits i n).2 inside), atPixel_advance fits]
    rfl
  rw [loaded]
  exact ⟨State.wf_setPixel s wf _ _ v, rfl, fun j hj => pixelAt_setPixel wf fits inside hj v⟩

/-- The pad half of an odd count is no pixel (64_gpu R507). -/
theorem loadPixel_outside {s : State} {t : Transfer} (fits : t.fits) {i n : Nat} (cursor : s.gpu.ld = t.atPixel i n)
    (outside : t.w * t.h ≤ i) (v : Half) : s.loadPixel v = s := by
  unfold State.loadPixel
  rw [cursor]
  exact if_neg (by rw [atPixel_inside fits]; omega)

/-- The halves of a list of data words: pixel `j` of the image they describe (64_gpu R507). -/
def pixelOf (words : List Word) (j : Nat) : Half := (words.getD (j / 2) 0).extractLsb' (16 * (j % 2)) 16

theorem pixelOf_cons (d : Word) (words : List Word) (j : Nat) : pixelOf (d :: words) (j + 2) = pixelOf words j := by
  unfold pixelOf
  rw [Nat.add_div_right j (by decide), Nat.add_mod_right, List.getD_cons_succ]

/-- VRAM holds, from pixel `i` of the image on, the pixels of the data words. -/
def holdsImage (s : State) (t : Transfer) (i : Nat) (words : List Word) : Prop :=
  ∀ j, i + j < t.w * t.h → s.pixelAt t (i + j) = pixelOf words j

/-- One data word of a load: its pixels, the cursor for a next word, and the mode (64_gpu R507). -/
theorem loadWord_spec {s : State} {t : Transfer} (fits : t.fits) (wf : s.vram.wf Config.vramSize = true) {i n : Nat}
    (cursor : s.gpu.ld = t.atPixel i (n + 1)) (inside : i < t.w * t.h) (d : Word) :
    (s.loadWord d).vram.wf Config.vramSize = true ∧
      (∀ j, j < t.w * t.h → (s.loadWord d).pixelAt t j =
        if j = i then d.extractLsb' 0 16 else if j = i + 1 then d.extractLsb' 16 16 else s.pixelAt t j) ∧
      (i + 1 < t.w * t.h → (s.loadWord d).gpu.ld = t.atPixel (i + 2) n) ∧
      (s.loadWord d).gpu.gp0Mode = (if n = 0 then .command else s.gpu.gp0Mode) ∧
      (s.loadWord d).gpu.cmdRemaining = s.gpu.cmdRemaining := by
  obtain ⟨wf1, gpu1, pixels1⟩ := loadPixel_inside fits wf cursor inside (d.extractLsb' 0 16)
  have cursor1 : (s.loadPixel (d.extractLsb' 0 16)).gpu.ld = t.atPixel (i + 1) (n + 1) := by rw [gpu1]
  unfold State.loadWord
  dsimp only
  by_cases more : i + 1 < t.w * t.h
  · obtain ⟨wf2, gpu2, pixels2⟩ := loadPixel_inside fits wf1 cursor1 more (d.extractLsb' 16 16)
    rw [gpu2, gpu1]
    refine ⟨wf2, fun j hj => ?_, fun _ => rfl, rfl, rfl⟩
    refine (pixels2 j hj).trans ?_
    rw [pixels1 j hj]
    by_cases first : j = i
    · rw [if_neg (by omega), if_pos first, if_pos first]
    · rw [if_neg first, if_neg first]
  · rw [loadPixel_outside fits cursor1 (by omega), gpu1]
    refine ⟨wf1, fun j hj => ?_, fun h => absurd h more, rfl, rfl⟩
    refine (pixels1 j hj).trans (if_congr Iff.rfl rfl ?_)
    rw [if_neg (by omega)]

/-- The data words of a load fill the image from pixel `i` on and leave the pixels before it (64_gpu R507). -/
theorem gp0WriteAll_load (words : List Word) {s : State} {t : Transfer} (fits : t.fits) (wf : s.vram.wf Config.vramSize = true)
    {i : Nat} (cursor : 0 < words.length → s.gpu.ld = t.atPixel i words.length)
    (mode : s.gpu.gp0Mode = if words.length = 0 then .command else .imageLoad)
    (enough : t.w * t.h ≤ i + 2 * words.length) (needed : i + 2 * words.length ≤ t.w * t.h + 1) :
    ∃ u, gp0WriteAll words s = .next u ∧ u.gpu.gp0Mode = .command ∧ u.gpu.cmdRemaining = s.gpu.cmdRemaining ∧
      holdsImage u t i words ∧ ∀ j, j < i → j < t.w * t.h → u.pixelAt t j = s.pixelAt t j := by
  induction words generalizing s i with
  | nil => exact ⟨s, rfl, mode, rfl, fun j hj => absurd hj (by simp at enough; omega), fun j _ _ => rfl⟩
  | cons d words ih =>
    have inside : i < t.w * t.h := by rw [List.length_cons] at needed; omega
    obtain ⟨wf', pixels, cursor', mode', remaining⟩ := loadWord_spec fits wf (cursor (Nat.succ_pos _)) inside d
    have loading : s.gpu.gp0Mode = .imageLoad := mode
    have accepted : s.gp0Write d = .next (s.loadWord d) := by
      unfold State.gp0Write
      rw [loading]
    rw [loading] at mode'
    rw [List.length_cons] at enough needed
    obtain ⟨u, sent, idle, remaining', image, before⟩ := ih wf' (i := i + 2) (fun more => cursor' (by omega)) mode' (by omega)
      (by omega)
    refine ⟨u, ?_, idle, remaining'.trans remaining, fun j hj => ?_, fun j hj inside => ?_⟩
    · rw [gp0WriteAll, accepted, andThen_next, sent]
    · match j with
      | 0 => rw [Nat.add_zero, before i (by omega) inside, pixels i inside, if_pos rfl]; rfl
      | 1 => rw [before (i + 1) (by omega) hj, pixels (i + 1) hj, if_neg (by omega), if_pos rfl]; rfl
      | j + 2 =>
        rw [pixelOf_cons, ← image j (by omega)]
        congr 1
        omega
    · rw [before j (by omega) inside, pixels j inside, if_neg (by omega), if_neg (by omega)]

/-! ## Reading back -/

/-- One pixel of a read inside the image (64_gpu R512). -/
theorem nextPixel_inside {s : State} {t : Transfer} (fits : t.fits) {i n : Nat} (cursor : s.gpu.rd = t.atPixel i n)
    (inside : i < t.w * t.h) :
    s.nextPixel = (s.pixelAt t i, s.setGpu { s.gpu with rd := t.atPixel (i + 1) n }) := by
  unfold State.nextPixel
  rw [cursor]
  dsimp only
  rw [if_pos ((atPixel_inside fits i n).2 inside), atPixel_advance fits]
  rfl

/-- The pad half of an odd count reads 0 (64_gpu R512). -/
theorem nextPixel_outside {s : State} {t : Transfer} (fits : t.fits) {i n : Nat} (cursor : s.gpu.rd = t.atPixel i n)
    (outside : t.w * t.h ≤ i) : s.nextPixel = (0, s) := by
  unfold State.nextPixel
  rw [cursor]
  exact if_neg (by rw [atPixel_inside fits]; omega)

/-- One GPUREAD: two pixels, the cursor for a next word, and the mode (64_gpu R513). -/
theorem gpuRead_spec {s : State} {t : Transfer} (fits : t.fits) {i n : Nat} (cursor : s.gpu.rd = t.atPixel i (n + 1))
    (mode : s.gpu.gp0Mode = .vramToCpu) (inside : i < t.w * t.h) :
    s.gpuRead.1 = (if i + 1 < t.w * t.h then s.pixelAt t (i + 1) else 0) ++ s.pixelAt t i ∧
      (i + 1 < t.w * t.h → s.gpuRead.2.gpu.rd = t.atPixel (i + 2) n) ∧
      s.gpuRead.2.gpu.gp0Mode = (if n = 0 then .command else .vramToCpu) ∧ s.gpuRead.2.vram = s.vram := by
  unfold State.gpuRead
  rw [mode]
  dsimp only
  rw [nextPixel_inside fits cursor inside]
  dsimp only
  by_cases more : i + 1 < t.w * t.h
  · rw [nextPixel_inside fits (i := i + 1) rfl more, if_pos more]
    refine ⟨rfl, fun _ => rfl, ?_, rfl⟩
    simp only [Gpu.countReadWord, State.setGpu_gpu, mode]
    rfl
  · rw [nextPixel_outside fits (i := i + 1) rfl (by omega), if_neg more]
    refine ⟨rfl, fun h => absurd h more, ?_, rfl⟩
    simp only [Gpu.countReadWord, State.setGpu_gpu, mode]
    rfl

/-- The words a read of `pixels` pixels gives back: the upper half of the last word of an odd count is pad (64_gpu R513). -/
def readBack : (pixels : Nat) → List Word → List Word
  | _, [] => []
  | pixels, d :: words => (if pixels = 1 then d &&& 0x0000FFFF else d) :: readBack (pixels - 2) words

theorem pixelAt_of_vram_eq {s u : State} (same : u.vram = s.vram) (t : Transfer) (i : Nat) : u.pixelAt t i = s.pixelAt t i := by
  unfold State.pixelAt State.pixel State.vramByte
  rw [same]

/-- Both halves of a word put together again. -/
theorem halves_of_word (d : Word) : d.extractLsb' 16 16 ++ d.extractLsb' 0 16 = d :=
  (BitVec.extractLsb'_append_extractLsb'_eq_extractLsb' rfl).trans BitVec.extractLsb'_eq_self

/-- The lower half of a word under a pad half of 0. -/
theorem padded_half_of_word (d : Word) : (0 : Half) ++ d.extractLsb' 0 16 = d &&& 0x0000FFFF := by
  apply BitVec.eq_of_getLsbD_eq
  intro i hi
  rw [BitVec.getLsbD_append, BitVec.getLsbD_and, BitVec.getLsbD_extractLsb']
  interval_cases i <;> simp

/-- A read of the image gives its data words back and ends in Command mode (64_gpu R513, R514). -/
theorem gpuReadAll_spec (words : List Word) {s : State} {t : Transfer} (fits : t.fits) {i : Nat}
    (cursor : 0 < words.length → s.gpu.rd = t.atPixel i words.length)
    (mode : s.gpu.gp0Mode = if words.length = 0 then .command else .vramToCpu)
    (needed : i + 2 * words.length ≤ t.w * t.h + 1) (image : holdsImage s t i words) :
    (gpuReadAll words.length s).1 = readBack (t.w * t.h - i) words ∧
      (gpuReadAll words.length s).2.gpu.gp0Mode = .command := by
  induction words generalizing s i with
  | nil => exact ⟨rfl, mode⟩
  | cons d words ih =>
    rw [List.length_cons] at needed
    obtain ⟨value, cursor', mode', vram⟩ := gpuRead_spec fits (cursor (Nat.succ_pos _)) mode (by omega)
    have image' : holdsImage s.gpuRead.2 t (i + 2) words := fun j hj => by
      rw [pixelAt_of_vram_eq vram, ← pixelOf_cons d, ← image (j + 2) (by omega)]
      congr 1
      omega
    obtain ⟨rest, idle⟩ := ih (fun more => cursor' (by omega)) mode' (by omega) image'
    refine ⟨?_, idle⟩
    have low : s.pixelAt t i = d.extractLsb' 0 16 := image 0 (by omega)
    have first : s.gpuRead.1 = if t.w * t.h - i = 1 then d &&& 0x0000FFFF else d := by
      rw [value, low]
      by_cases pad : t.w * t.h - i = 1
      · rw [if_neg (by omega), if_pos pad, padded_half_of_word]
      · have high : s.pixelAt t (i + 1) = d.extractLsb' 16 16 := image 1 (by omega)
        rw [if_pos (by omega), if_neg pad, high, halves_of_word]
    rw [readBack, ← first, ← Nat.sub_add_eq, ← rest]
    rfl

/-- What is given back, for the words of a whole image. -/
theorem readBack_eq (words : List Word) {pixels : Nat} (length : words.length = (pixels + 1) / 2) :
    readBack pixels words =
      if pixels % 2 = 0 then words
      else words.dropLast ++ (words.getLast?.map (fun d => d &&& 0x0000FFFF)).toList := by
  induction words generalizing pixels with
  | nil => split <;> rfl
  | cons d words ih =>
    rw [List.length_cons] at length
    cases words with
    | nil =>
      obtain rfl | rfl : pixels = 1 ∨ pixels = 2 := by rw [List.length_nil] at length; omega
      · rfl
      · rfl
    | cons e words =>
      rw [List.length_cons] at length
      have parity : (pixels - 2) % 2 = pixels % 2 := by omega
      rw [readBack, if_neg (by omega), ih (pixels := pixels - 2) (by rw [List.length_cons]; omega), parity,
        List.getLast?_cons_cons]
      split <;> rfl

/-! ## Starting a transfer -/

/-- Words 1 and 2 of a transfer describe a rectangle of `w` by `h` pixels, its cursor at the first (64_gpu R505). -/
theorem transferOf_spec (origin : Word) {w h : Nat} (hw : w < 65536) (hh : h < 65536) :
    let t := transferOf origin (BitVec.ofNat 32 (65536 * h + w))
    t.w = w ∧ t.h = h ∧ t = t.atPixel 0 ((w * h + 1) / 2) := by
  have width : ((BitVec.ofNat 32 (65536 * h + w)).extractLsb' 0 16).toNat = w := by simp; omega
  have height : ((BitVec.ofNat 32 (65536 * h + w)).extractLsb' 16 16).toNat = h := by
    simp [Nat.shiftRight_eq_div_pow]; omega
  refine ⟨width, height, ?_⟩
  unfold Transfer.atPixel transferOf
  rw [width, height, Nat.zero_mod, Nat.zero_div]

/-- GP0 0xA0 on an idle GP0 (64_gpu R505). -/
theorem gp0WriteAll_startLoad {s : State} (command : s.gpu.gp0Mode = .command) (idle : s.gpu.cmdRemaining = 0)
    (origin size : Word) (positive : 0 < (transferOf origin size).words) :
    ∃ u, gp0WriteAll [0xA0000000, origin, size] s = .next u ∧ u.gpu.ld = transferOf origin size ∧
      u.gpu.gp0Mode = .imageLoad ∧ u.gpu.cmdRemaining = 0 ∧ u.vram = s.vram :=
  ⟨_, gp0WriteAll_command command idle rfl, rfl, if_pos positive, idle, vram_gp0Run _⟩

/-- GP0 0xC0 on an idle GP0 (64_gpu R510). -/
theorem gp0WriteAll_startRead {s : State} (command : s.gpu.gp0Mode = .command) (idle : s.gpu.cmdRemaining = 0)
    (origin size : Word) (positive : 0 < (transferOf origin size).words) :
    ∃ u, gp0WriteAll [0xC0000000, origin, size] s = .next u ∧ u.gpu.rd = transferOf origin size ∧
      u.gpu.gp0Mode = .vramToCpu ∧ u.vram = s.vram :=
  ⟨_, gp0WriteAll_command command idle rfl, rfl, if_pos positive, vram_gp0Run _⟩

/-- Settles O52: the load leaves the image in VRAM, the read starts from the same rectangle, and each GPUREAD takes one word's two
pixels. -/
theorem imageReadBackReturnsTheLoadedPixels : Obligations.ImageReadBackReturnsTheLoadedPixels := by
  unfold Obligations.ImageReadBackReturnsTheLoadedPixels
  intro s w h origin words canonical command idle w_pos w_le h_pos h_le length size
  obtain ⟨width, height, start⟩ := transferOf_spec origin (w := w) (h := h) (by omega) (by omega)
  obtain ⟨-, -, wf⟩ := canonical
  have pixels : 0 < w * h := Nat.mul_pos w_pos h_pos
  have some_words : words.length ≠ 0 := by omega
  rw [← length] at start
  have positive : 0 < (transferOf origin size).words := by
    rw [start]
    exact Nat.pos_of_ne_zero some_words
  obtain ⟨s₁, opened, ld, loading, none_due, vram₁⟩ := gp0WriteAll_startLoad command idle origin size positive
  have area : (transferOf origin size).w * (transferOf origin size).h = w * h := congrArg₂ (· * ·) width height
  have fits : (transferOf origin size).fits := by
    unfold Transfer.fits
    rw [width, height]
    exact ⟨w_pos, w_le, h_pos, h_le⟩
  obtain ⟨t, sent, command', idle', image, -⟩ := gp0WriteAll_load words fits (vram₁ ▸ wf) (i := 0) (fun _ => ld.trans start)
    (loading.trans (if_neg some_words).symm) (by omega) (by omega)
  obtain ⟨u, asked, rd, reading, vram⟩ := gp0WriteAll_startRead command' (idle'.trans none_due) origin size positive
  have kept : holdsImage u (transferOf origin size) 0 words := fun j hj => (pixelAt_of_vram_eq vram _ _).trans (image j hj)
  obtain ⟨back, done⟩ := gpuReadAll_spec words fits (fun _ => rd.trans start) (reading.trans (if_neg some_words).symm) (by omega)
    kept
  have whole : gp0WriteAll (0xA0000000 :: origin :: size :: words) s = .next t := by
    rw [← sent]
    exact (gp0WriteAll_append [0xA0000000, origin, size] words s).trans (by rw [opened, andThen_next])
  rw [area, Nat.sub_zero, readBack_eq words length] at back
  exact ⟨t, u, whole, asked, back, done, command'⟩

end Machine
end Sys2Proof
end
